-- ==== Sys2Proof/Word.lean ====
section
/-! DEFINITION. Word.lean: the widths of the block (spec/00_scope.md R6): command and response words, 8-bit codes,
indices 0..25, and the tables indexed by them. -/
namespace Sys2Proof

/-- A 32-bit command or response word (00_scope.md R6: `CMD_W`, `RSP_W`; 30_encoding.md R70, R72). -/
abbrev Word := BitVec 32

/-- An 8-bit character value (00_scope.md R6 `CHAR_W`, R12 "Code"). -/
abbrev Code := BitVec 8

/-- An index 0..25. 10_state.md R30: "A model may therefore type every 5-bit field as `Fin 26`". -/
abbrev Idx := Fin 26

/-- A rotor slot: 0 left, 1 middle, 2 right (10_state.md R21). -/
abbrev Slot := Fin 3

/-- A table file of 26 indices (10_state.md R27, R28, R29, R35). -/
abbrev Table := Vector Idx 26

/-- Twenty-six codes: a raw wiring or a ROM wiring string (10_state.md R33, R34, R36; 42_rotor.md R131). -/
abbrev Wiring := Vector Code 26

end Sys2Proof
end

