-- ==== Sys2Proof/Config.lean ====
section
/-! DEFINITION. Config.lean: what an implementation fixes (spec/00_scope.md R6) and the one free value. The ROM
contents are a record that the meanings take as an argument; its default stands in Machine/Rom.lean. -/
namespace Sys2Proof

/-- One entry of `ROTOR_ROM`: "a fixed 26-symbol wiring string and a single notch letter" (42_rotor.md R131). -/
structure RotorSpec where
  wiring : Wiring
  notch  : Code
  deriving DecidableEq, Repr

/-- The two read-only ROMs (20_memory.md R51), parameters of the engine's step (10_state.md R20):
rotor ids 0..4 = I..V and reflector ids 0..2 = A..C. -/
structure Roms where
  rotors     : Vector RotorSpec 5
  reflectors : Vector Wiring 3
  deriving DecidableEq, Repr

/-- Which byte of a word travels first on a byte-wide transport outside the block. -/
inductive ByteOrder where
  | leastFirst
  | mostFirst
  deriving DecidableEq, Repr, Inhabited

/-- `CMD_BYTE_ORDER`: OPEN (20_memory.md R53, 92_eei_decisions.md D29). The block itself has no byte order, and no
meaning reads this constant; it stands for the platform's choice (log entry 10). -/
opaque Config.cmdByteOrder : ByteOrder

/-- `CMD_LATENCY` less one: OPEN, at least 1 cycle in all (70_reset_and_hazards.md R290, D30). "No rule of this spec
depends on timing", so no meaning reads it (log entry 9). -/
opaque Config.cmdLatencyExtra : Nat

/-- `CMD_LATENCY`, with value at least 1 (70_reset_and_hazards.md R290). -/
def Config.cmdLatency : Nat := Config.cmdLatencyExtra + 1

/-- FREE VALUE. Whether the response of a command in flight is lost when reset comes (70_reset_and_hazards.md R280:
"Its response may be lost, and the host must not assume either outcome"; 93_implementation_defined.md U4 "any
value"). The argument is State's counter `freeCount` (log entry 6); the engines of a platform share this one constant (log entry
17). -/
opaque Config.responseLost : Nat → Bool

end Sys2Proof
end

