-- ==== Sys2Proof/Syntax.lean ====
section
/-! DEFINITION. Syntax.lean: the commands of ENG-CMD v1, one constructor per row of spec/opcode_table.json
(spec/30_encoding.md R74), each with the operand fields of R73 at the width the word gives them. -/
namespace Sys2Proof

/-- A command. Operands keep the width of their field; the two values a field can hold but its command cannot take
(30_encoding.md R77) are refused by `WellFormed` and by the decoder. -/
inductive Instr where
  /-- CFG_CLEAR, format N (44_machine.md R191). -/
  | cfgClear
  /-- CFG_ROTOR name, ring, pos, format R (42_rotor.md R132). -/
  | cfgRotor (name : BitVec 3) (ring : Code) (pos : Code)
  /-- CFG_WIRE index, sym, format W (42_rotor.md R133). -/
  | cfgWire (index : BitVec 5) (sym : Code)
  /-- CFG_ROTOR_RAW ring, pos, notch, format Q (42_rotor.md R137). -/
  | cfgRotorRaw (ring : Code) (pos : Code) (notch : Code)
  /-- CFG_REFLECTOR name, format F (43_reflector.md R173). -/
  | cfgReflector (name : BitVec 3)
  /-- CFG_REFLECTOR_RAW, format N (43_reflector.md R174). -/
  | cfgReflectorRaw
  /-- CFG_PLUG a, b, format P (41_plugboard.md R113). -/
  | cfgPlug (a : Code) (b : Code)
  /-- CFG_COMMIT, format N (44_machine.md R193). -/
  | cfgCommit
  /-- ENCODE_CHAR c, format C (44_machine.md R205). -/
  | encodeChar (c : Code)
  /-- SET_POSITION slot, sym, format S (44_machine.md R210). -/
  | setPosition (slot : BitVec 2) (sym : Code)
  /-- READ_STATE, format N (44_machine.md R212). -/
  | readState
  deriving DecidableEq, Repr

end Sys2Proof
end

