-- ==== Sys2Proof/WellFormed.lean ====
section
/-! DEFINITION. WellFormed.lean: the operand range checks of spec/30_encoding.md R77, "the only operand values a field
can hold but the command cannot take". -/
namespace Sys2Proof

/-- CFG_WIRE's index is 0..25 and SET_POSITION's slot is not 3 (30_encoding.md R77); every other operand value is
legal as a command, and the command itself reports it. -/
def WellFormed : Instr → Bool
  | .cfgClear => true
  | .cfgRotor _ _ _ => true
  | .cfgWire index _ => decide (index.toNat ≤ 25)
  | .cfgRotorRaw _ _ _ => true
  | .cfgReflector _ => true
  | .cfgReflectorRaw => true
  | .cfgPlug _ _ => true
  | .cfgCommit => true
  | .encodeChar _ => true
  | .setPosition slot _ => decide (slot ≠ 3#2)
  | .readState => true

end Sys2Proof
end

