-- ==== Sys2Proof/Decode.lean ====
section
/-! DEFINITION. Decode.lean: the decoder, total on every word and on every list of bytes, written from the opcode map
of spec/30_encoding.md R74 with the checks of R75 to R77; and after it the encoder, written from the formats of R71.
Decoding depends on the word alone, never on state (R78). -/
namespace Sys2Proof

/-- Why a word is ILLEGAL (30_encoding.md R76), and why bytes are no word. -/
inductive Illegal where
  /-- The opcode is 0x0 or 0xC to 0xF (R76, first bullet). -/
  | undefinedOpcode
  /-- The opcode names a command and a reserved bit is set (R75). -/
  | reservedBitSet
  /-- CFG_WIRE with index 26..31 (R77). -/
  | wireIndexRange
  /-- SET_POSITION with slot 3 (R77). -/
  | slotRange
  /-- Fewer than the four bytes of a word (R70: "Every command is exactly one 32-bit word"). -/
  | truncatedWord
  deriving DecidableEq, Repr

/-- `w[lo+len-1:lo]` (00_scope.md R7). -/
abbrev field (w : Word) (lo len : Nat) : BitVec len := w.extractLsb' lo len

/-- The opcode, `w[31:28]` (30_encoding.md R70). -/
abbrev opcode (w : Word) : BitVec 4 := field w 28 4

/-- "Each row's `match` and `mask` select the command: `(w & mask) == match`" (30_encoding.md R74). -/
def selects (mask value w : Word) : Bool := w &&& mask == value

/-- The opcodes that name a command, 0x1 to 0xB (30_encoding.md R74). -/
def opcodeNamed (w : Word) : Bool := decide (1 ≤ (opcode w).toNat) && decide ((opcode w).toNat ≤ 11)

/-- The opcode map, row by row (30_encoding.md R74), with R77's extra conditions; a word that selects no row is
rejected by R76's reasons. -/
def decode (w : Word) : Except Illegal Instr :=
  if selects 0xFFFFFFFF#32 0x10000000#32 w then .ok .cfgClear
  else if selects 0xF80000FF#32 0x20000000#32 w then .ok (.cfgRotor (field w 24 3) (field w 16 8) (field w 8 8))
  else if selects 0xFFE0FF00#32 0x30000000#32 w then
    if (field w 16 5).toNat ≤ 25 then .ok (.cfgWire (field w 16 5) (field w 0 8)) else .error .wireIndexRange
  else if selects 0xFF000000#32 0x40000000#32 w then .ok (.cfgRotorRaw (field w 16 8) (field w 8 8) (field w 0 8))
  else if selects 0xF8FFFFFF#32 0x50000000#32 w then .ok (.cfgReflector (field w 24 3))
  else if selects 0xFFFFFFFF#32 0x60000000#32 w then .ok .cfgReflectorRaw
  else if selects 0xFFFF0000#32 0x70000000#32 w then .ok (.cfgPlug (field w 8 8) (field w 0 8))
  else if selects 0xFFFFFFFF#32 0x80000000#32 w then .ok .cfgCommit
  else if selects 0xFFFFFF00#32 0x90000000#32 w then .ok (.encodeChar (field w 0 8))
  else if selects 0xFCFFFF00#32 0xA0000000#32 w then
    if field w 24 2 = 3#2 then .error .slotRange else .ok (.setPosition (field w 24 2) (field w 0 8))
  else if selects 0xFFFFFFFF#32 0xB0000000#32 w then .ok .readState
  else if opcodeNamed w then .error .reservedBitSet
  else .error .undefinedOpcode

/-- A word from four bytes in transport order (20_memory.md R53: the order is the platform's `CMD_BYTE_ORDER`). -/
def wordOfBytes (o : ByteOrder) (b0 b1 b2 b3 : Code) : Word :=
  match o with
  | .leastFirst => b3 ++ b2 ++ b1 ++ b0
  | .mostFirst => b0 ++ b1 ++ b2 ++ b3

/-- The four bytes of a word in transport order. -/
def bytesOfWord (o : ByteOrder) (w : Word) : List Code :=
  match o with
  | .leastFirst => [field w 0 8, field w 8 8, field w 16 8, field w 24 8]
  | .mostFirst => [field w 24 8, field w 16 8, field w 8 8, field w 0 8]

/-- The command at the head of a byte stream and the bytes after it. -/
def decodeBytes (o : ByteOrder) : List Code → Except Illegal (Instr × List Code)
  | b0 :: b1 :: b2 :: b3 :: rest =>
    match decode (wordOfBytes o b0 b1 b2 b3) with
    | .ok i => .ok (i, rest)
    | .error e => .error e
  | _ => .error .truncatedWord

/-- What the decoder reads from an opcode-table word: every row of the table is one 32-bit word (30_encoding.md R70),
moved whole (20_memory.md R53), with the bits above `nbits` zero. -/
def decodeTableWord (nbits w : Nat) : Option Instr :=
  match decode (BitVec.ofNat 32 (w % 2 ^ nbits)) with
  | .ok i => some i
  | .error _ => none

/-- The word of a command, field by field from bit 31 down, as the formats of 30_encoding.md R71 lay it out; `0` marks
the reserved bits. -/
def encode : Instr → Word
  | .cfgClear => 0x1#4 ++ 0#4 ++ 0#8 ++ 0#8 ++ 0#8
  | .cfgRotor name ring pos => 0x2#4 ++ 0#1 ++ name ++ ring ++ pos ++ 0#8
  | .cfgWire index sym => 0x3#4 ++ 0#4 ++ 0#3 ++ index ++ 0#8 ++ sym
  | .cfgRotorRaw ring pos notch => 0x4#4 ++ 0#4 ++ ring ++ pos ++ notch
  | .cfgReflector name => 0x5#4 ++ 0#1 ++ name ++ 0#8 ++ 0#8 ++ 0#8
  | .cfgReflectorRaw => 0x6#4 ++ 0#4 ++ 0#8 ++ 0#8 ++ 0#8
  | .cfgPlug a b => 0x7#4 ++ 0#4 ++ 0#8 ++ a ++ b
  | .cfgCommit => 0x8#4 ++ 0#4 ++ 0#8 ++ 0#8 ++ 0#8
  | .encodeChar c => 0x9#4 ++ 0#4 ++ 0#8 ++ 0#8 ++ c
  | .setPosition slot sym => 0xA#4 ++ 0#2 ++ slot ++ 0#8 ++ 0#8 ++ sym
  | .readState => 0xB#4 ++ 0#4 ++ 0#8 ++ 0#8 ++ 0#8

end Sys2Proof
end

