-- ==== Sys2Proof/Machine/State.lean ====
section
/-! DEFINITION. Machine/State.lean: the engine's state as plain data (spec/10_state.md), the host's port beside it, and
the state after reset (R39). -/
namespace Sys2Proof.Machine

/-- Why the machine stops with a fault: never. "The block has no traps, no exception vectors and no handlers. Every
command ends with one response word" (60_exceptions.md R250), and no table access can fault (20_memory.md R52); errors
are status codes in the response. So this type has no constructor: nothing raises a fault (safe; log entry 13). -/
inductive Fault where
  deriving DecidableEq, Repr

/-- Why an instruction has no meaning. -/
inductive Refusal where
  /-- Raised by an arm of exec whose instruction has not been given its meaning (safe). No arm does: every row of
  spec/opcode_table.json has its meaning. -/
  | notModelled (mnemonic : String)
  deriving DecidableEq, Repr

/-- The ten status codes; 0x0A..0xFF are "never produced" (60_exceptions.md R251). -/
inductive Status where
  | ok
  | unknownRotor
  | unknownReflector
  | invalidWiring
  | invalidRotorCount
  | invalidPair
  | conflictingPair
  | invalidSymbol
  | notConfigured
  | illegalCommand
  deriving DecidableEq, Repr

/-- `stg_plug_err`: the first plugboard pair's failure; the value 3 is never held (10_state.md R24). -/
inductive PlugErr where
  | none
  | invalidPair
  | conflictingPair
  deriving DecidableEq, Repr

/-- `stg_rot[k].kind` (10_state.md R33). -/
inductive RotorKind where
  | named
  | raw
  deriving DecidableEq, Repr

/-- `stg_refl_kind`; the value 3 is never held (10_state.md R34). -/
inductive ReflKind where
  | none
  | named
  | raw
  deriving DecidableEq, Repr

/-- A staged rotor (10_state.md R33). -/
structure StagedRotor where
  kind  : RotorKind
  name  : BitVec 3
  wire  : Wiring
  notch : Code
  ring  : Code
  pos   : Code
  deriving DecidableEq, Repr

/-- The active configuration, written only by a successful CFG_COMMIT (10_state.md section 4). -/
structure Active where
  /-- `ring[k]`, the ring offset of rotor k (R25). -/
  ring     : Vector Idx 3
  /-- `notch_en[k]` (R26). -/
  notchEn  : Vector Bool 3
  /-- `notch_idx[k]` (R26). -/
  notchIdx : Vector Idx 3
  /-- `fwd[k]`, the wiring of rotor k as indices (R27). -/
  fwd      : Vector Table 3
  /-- `bwd[k]`, its inverse (R27). -/
  bwd      : Vector Table 3
  /-- `refl` (R28). -/
  refl     : Table
  /-- `plug` (R29). -/
  plug     : Table
  deriving DecidableEq, Repr

/-- The staging area, the configuration of the next machine (10_state.md section 5 and R24). -/
structure Staging where
  /-- `stg_count`, 0..4, where 4 means "four or more" (R32). -/
  count    : Fin 5
  /-- `stg_rot[k]`: 0 left, 1 middle, 2 right (R33). -/
  rot      : Vector StagedRotor 3
  /-- `stg_refl_kind` (R34). -/
  reflKind : ReflKind
  /-- `stg_refl_name` (R34). -/
  reflName : BitVec 3
  /-- `stg_refl_wire` (R34). -/
  reflWire : Wiring
  /-- `stg_plug`, the plugboard under construction (R35). -/
  plug     : Table
  /-- `stg_plug_err` (R24). -/
  plugErr  : PlugErr
  /-- `wbuf`, the raw-wiring buffer (R36). -/
  wbuf     : Wiring
  deriving DecidableEq, Repr

/-- What the host can do to the block (70_reset_and_hazards.md R292). -/
inductive HostInput where
  /-- Present a command word. -/
  | command (w : Word)
  /-- Drive the reset input between commands (R280). -/
  | reset
  /-- Drive the reset input after word `w` was accepted and before its response was delivered (R280;
  93_implementation_defined.md U4). -/
  | resetInFlight (w : Word)
  deriving DecidableEq, Repr

/-- The engine and its host port. The first four fields are the spec's state (10_state.md); the last three are the
model's own (log entries 1, 2 and 6). -/
structure State where
  /-- `pos[0..2]`, the rotor positions (10_state.md R21). -/
  pos       : Vector Idx 3
  /-- `cfg_valid` (10_state.md R23). -/
  cfgValid  : Bool
  /-- The active configuration (10_state.md section 4). -/
  active    : Active
  /-- The staging area (10_state.md section 5). -/
  staging   : Staging
  /-- Host inputs presented and not yet accepted, oldest first: the command stream (10_state.md R20), held off until
  the engine is ready (70_reset_and_hazards.md R283). -/
  pending   : List HostInput
  /-- Response words delivered, oldest first: the observation of 70_reset_and_hazards.md R293. -/
  responses : List Word
  /-- Which free value is drawn next (Config.responseLost). -/
  freeCount : Nat
  deriving DecidableEq, Repr

/-- The identity table, `t[i] = i` (10_state.md R35). -/
def identityTable : Table := Vector.ofFn fun i => i

/-- All 26 entries 0x00 (10_state.md R33, R34, R36). -/
def blankWiring : Wiring := Vector.replicate 26 0#8

/-- A slot's value at reset and after CFG_CLEAR (10_state.md R33). -/
def StagedRotor.blank : StagedRotor :=
  { kind := .named, name := 0#3, wire := blankWiring, notch := 0#8, ring := 0#8, pos := 0#8 }

/-- The staging area at reset and after CFG_CLEAR (10_state.md R39, R32 to R36, R24). -/
def Staging.cleared : Staging :=
  { count := 0
    rot := Vector.replicate 3 StagedRotor.blank
    reflKind := .none
    reflName := 0#3
    reflWire := blankWiring
    plug := identityTable
    plugErr := .none
    wbuf := blankWiring }

/-- The active configuration at reset. The spec leaves it unspecified and unobservable (10_state.md R39): DESIGN
CHOICE, log entry 4. -/
def Active.atReset : Active :=
  { ring := Vector.replicate 3 0
    notchEn := Vector.replicate 3 false
    notchIdx := Vector.replicate 3 0
    fwd := Vector.replicate 3 identityTable
    bwd := Vector.replicate 3 identityTable
    refl := Vector.replicate 26 0
    plug := identityTable }

/-- The machine right after reset (10_state.md R39), with nothing presented and nothing answered. -/
def State.reset : State :=
  { pos := Vector.replicate 3 0
    cfgValid := false
    active := Active.atReset
    staging := Staging.cleared
    pending := []
    responses := []
    freeCount := 0 }

end Sys2Proof.Machine
end

