-- ==== Sys2Proof/Machine/Flags.lean ====
section
/-! DEFINITION. Machine/Flags.lean: the block's codes and flags: the status numbers (spec/60_exceptions.md R251), the
sticky `stg_plug_err` (spec/10_state.md R24), the encodings of the kinds (R33, R34), and how a list of checks gives one
status (spec/44_machine.md R194). "The block has no other flags and no condition codes" (R24). -/
namespace Sys2Proof.Machine

/-- The number of a status (60_exceptions.md R251). -/
def Status.code : Status → BitVec 8
  | .ok => 0x00#8
  | .unknownRotor => 0x01#8
  | .unknownReflector => 0x02#8
  | .invalidWiring => 0x03#8
  | .invalidRotorCount => 0x04#8
  | .invalidPair => 0x05#8
  | .conflictingPair => 0x06#8
  | .invalidSymbol => 0x07#8
  | .notConfigured => 0x08#8
  | .illegalCommand => 0x09#8

/-- `stg_plug_err`'s two bits (10_state.md R24). -/
def PlugErr.code : PlugErr → BitVec 2
  | .none => 0#2
  | .invalidPair => 1#2
  | .conflictingPair => 2#2

/-- `stg_rot[k].kind`'s bit (10_state.md R33). -/
def RotorKind.code : RotorKind → BitVec 1
  | .named => 0#1
  | .raw => 1#1

/-- `stg_refl_kind`'s two bits (10_state.md R34). -/
def ReflKind.code : ReflKind → BitVec 2
  | .none => 0#2
  | .named => 1#2
  | .raw => 2#2

/-- What CFG_COMMIT reports for the sticky plugboard error (44_machine.md R194, last two checks). -/
def plugErrStatus : PlugErr → Status
  | .none => .ok
  | .invalidPair => .invalidPair
  | .conflictingPair => .conflictingPair

/-- "The first failure is the result" (44_machine.md R194). -/
def firstFailure : List Status → Status
  | [] => .ok
  | st :: rest => if st = .ok then firstFailure rest else st

end Sys2Proof.Machine
end

