-- ==== Sys2Proof/Machine/Operands.lean ====
section
/-! DEFINITION. Machine/Operands.lean: the values the operand fields stand for: the floor modulus (spec/00_scope.md
R8), the alphabet functions (spec/40_alphabet.md), the ring setting (spec/42_rotor.md R135), names and slots. -/
namespace Sys2Proof.Machine

/-- The floor modulus, "the unique `r` in [0, 25] with `a - r` a multiple of 26" (00_scope.md R8). -/
def mod26 (a : Int) : Idx := ⟨(a % 26).toNat, by omega⟩

/-- `upcase(c)` (40_alphabet.md R101). -/
def upcase (c : Code) : Code := if 0x61#8 ≤ c ∧ c ≤ 0x7A#8 then c - 0x20#8 else c

/-- `is_letter(u)` (40_alphabet.md R102). -/
def isLetter (u : Code) : Bool := decide (0x41#8 ≤ u) && decide (u ≤ 0x5A#8)

/-- The index of a letter, `u - 0x41` (40_alphabet.md R103), for callers that have tested `is_letter`. -/
def letterIndex (u : Code) : Idx := mod26 ((u.toNat : Int) - 0x41)

/-- `l2i(u)`: the index, or none for the condition InvalidSymbol (40_alphabet.md R103). -/
def l2i (u : Code) : Option Idx := if isLetter u then some (letterIndex u) else none

/-- `i2l(i)`: "always succeeds, taking `index mod 26`" (40_alphabet.md R104). -/
def i2l (i : Int) : Code := 0x41#8 + BitVec.ofNat 8 (mod26 i).val

/-- The ring offset of a ring setting, `(sext_8(s) - 1) mod 26` (42_rotor.md R135). -/
def ringOffset (s : Code) : Idx := mod26 (s.toInt - 1)

/-- `zext_16` of an 8-bit code (00_scope.md R7). -/
def zext16 (c : Code) : BitVec 16 := c.setWidth 16

/-- A 5-bit register's bits (00_scope.md R6: `IDX_W`). -/
def idxBits (i : Idx) : BitVec 5 := BitVec.ofNat 5 i.val

/-- SET_POSITION's slot, or none for slot 3 (30_encoding.md R73, R77). -/
def slotOf (slot : BitVec 2) : Option Slot := if h : slot.toNat < 3 then some ⟨slot.toNat, h⟩ else none

/-- CFG_WIRE's index, or none for 26..31 (30_encoding.md R73, R77). -/
def wireIndexOf (index : BitVec 5) : Option Idx := if h : index.toNat < 26 then some ⟨index.toNat, h⟩ else none

/-- The `ROTOR_ROM` entry of a rotor name; ids 5..7 are unknown (42_rotor.md R131). -/
def romRotor (rom : Roms) (name : BitVec 3) : Option RotorSpec := rom.rotors[name.toNat]?

/-- The `REFLECTOR_ROM` entry of a reflector name; ids 3..7 are unknown (43_reflector.md R171). -/
def romReflector (rom : Roms) (name : BitVec 3) : Option Wiring := rom.reflectors[name.toNat]?

/-- "26 distinct symbols, a bijection": every code a letter and no two alike (42_rotor.md R130, R144). -/
abbrev IsLetterPermutation (w : Wiring) : Prop :=
  (∀ i : Idx, isLetter w[i] = true) ∧ ∀ i j : Idx, i ≠ j → w[i] ≠ w[j]

/-- A wiring's codes as indices: `l2i(W[i])` for i in 0..25 (42_rotor.md R134, 43_reflector.md R176). -/
def wiringIndices (w : Wiring) : Table := Vector.ofFn fun i => letterIndex w[i]

end Sys2Proof.Machine
end

