-- ==== Sys2Proof/Machine/Ops.lean ====
section
/-! DEFINITION. Machine/Ops.lean: the operations every command shares: how a command ends (spec/00_scope.md R9
`respond`, `raise`), staging a rotor (spec/42_rotor.md R132, R137), and the table operations. The block has no memory a
command can reach (spec/20_memory.md R50) and takes no exception (spec/60_exceptions.md R250): `raise` is how an error
is taken, and there is no return from it (R257). -/
namespace Sys2Proof.Machine

/-- What a command answers. -/
abbrev Result := Host.Outcome State Fault Refusal

/-- The response word `{st[7:0], 0x00, data[15:0]}` (30_encoding.md R72). -/
def responseWord (st : Status) (data : BitVec 16) : Word := st.code ++ 0x00#8 ++ data

/-- `respond(st, data)` "ends the command and returns the response word" (00_scope.md R9). -/
def respond (st : Status) (data : BitVec 16) (s : State) : Result :=
  .next { s with responses := s.responses ++ [responseWord st data] }

/-- `raise <Status>`: "shorthand for `respond(<Status>, 0)` with no further state change" (00_scope.md R9). -/
def raise (st : Status) (s : State) : Result := respond st 0#16 s

/-- "`s.stg_rot[s.stg_count] <- e`" and the count, saturating at 4 (42_rotor.md R132, R137; 10_state.md R32). -/
def stageRotor (e : StagedRotor) (g : Staging) : Staging :=
  if h : g.count.val < 3 then
    { g with rot := g.rot.set g.count.val e h, count := ⟨g.count.val + 1, by omega⟩ }
  else { g with count := 4 }

/-- `for i in 0..25: b[f[i]] <- i`, over the table that stood there (42_rotor.md R134). -/
def fillInverse (f old : Table) : Table :=
  (List.finRange 26).foldl (fun b i => b.set f[i].val i f[i].isLt) old

/-- "stored as mutual swaps": `t[a] <- b; t[b] <- a` (41_plugboard.md R113). -/
def swapPair (t : Table) (a b : Idx) : Table := (t.set a.val b a.isLt).set b.val a b.isLt

end Sys2Proof.Machine
end

