-- ==== Sys2Proof/Machine/Plugboard.lean ====
section
/-! DEFINITION. Machine/Plugboard.lean: plugboard_involution_mapper (spec/41_plugboard.md): CFG_PLUG, and the plugboard
stage of the encode pipeline. -/
namespace Sys2Proof.Machine

/-- Pair validity, step 1: two distinct letters after `upcase` (41_plugboard.md R111, R112). -/
def pairIsValid (a b : Code) : Bool :=
  isLetter (upcase a) && isLetter (upcase b) && upcase a != upcase b

/-- Pair validity, step 2: a letter of the pair already belongs to an accepted pair (41_plugboard.md R112). -/
def pairConflicts (plug : Table) (a b : Code) : Bool :=
  let x := letterIndex (upcase a)
  let y := letterIndex (upcase b)
  plug[x] != x || plug[y] != y

/-- Add one pair to the staging map, or record the first failure (41_plugboard.md R113). -/
def addPair (a b : Code) (g : Staging) : Staging :=
  if g.plugErr ≠ .none then g
  else if pairIsValid a b = false then { g with plugErr := .invalidPair }
  else if pairConflicts g.plug a b = true then { g with plugErr := .conflictingPair }
  else { g with plug := swapPair g.plug (letterIndex (upcase a)) (letterIndex (upcase b)) }

/-- CFG_PLUG a, b (41_plugboard.md R113): always responds OK; the verdict is held in `stg_plug_err`. -/
def execCfgPlug (a b : Code) (s : State) : Result :=
  respond .ok 0#16 { s with staging := addPair a b s.staging }

/-- `swap(x)`: "the mapped partner, or the symbol itself if unmapped" (41_plugboard.md R117). -/
def swap (s : State) (x : Idx) : Idx := s.active.plug[x]

end Sys2Proof.Machine
end

