-- ==== Sys2Proof/Machine/Reflector.lean ====
section
/-! DEFINITION. Machine/Reflector.lean: reflector_involution_mapper (spec/43_reflector.md): CFG_REFLECTOR,
CFG_REFLECTOR_RAW; the check and the construction of the reflector at commit; the reflector stage of the pipeline. -/
namespace Sys2Proof.Machine

/-- CFG_REFLECTOR name: stage a named reflector (43_reflector.md R173). -/
def execCfgReflector (name : BitVec 3) (s : State) : Result :=
  respond .ok 0#16 { s with staging := { s.staging with reflKind := .named, reflName := name } }

/-- CFG_REFLECTOR_RAW: stage a reflector from the raw-wiring buffer (43_reflector.md R174). -/
def execCfgReflectorRaw (s : State) : Result :=
  respond .ok 0#16 { s with staging := { s.staging with reflKind := .raw, reflWire := s.staging.wbuf } }

/-- `check_reflector()` (43_reflector.md R175): a raw reflector needs 26 letters, and no more (90_conflicts.md C2). -/
def checkReflector (rom : Roms) (g : Staging) : Status :=
  match g.reflKind with
  | .none => .unknownReflector
  | .named => if (romReflector rom g.reflName).isNone then .unknownReflector else .ok
  | .raw => if ∀ i : Idx, isLetter g.reflWire[i] = true then .ok else .invalidWiring

/-- The wiring codes `W` of the staged reflector (43_reflector.md R176). Where the name is unknown, CFG_COMMIT has
already failed and nothing is built: the value given then is never used (log entry 12). -/
def reflectorSource (rom : Roms) (g : Staging) : Wiring :=
  match g.reflKind with
  | .named => (romReflector rom g.reflName).getD g.reflWire
  | .none => g.reflWire
  | .raw => g.reflWire

/-- `refl` of the staged reflector (43_reflector.md R176). -/
def builtRefl (rom : Roms) (g : Staging) : Table := wiringIndices (reflectorSource rom g)

/-- `reflect(x)` (43_reflector.md R177). -/
def reflect (s : State) (x : Idx) : Idx := s.active.refl[x]

end Sys2Proof.Machine
end

