-- ==== Sys2Proof/Machine/Rom.lean ====
section
/-! DEFINITION. Machine/Rom.lean: the default contents of `ROTOR_ROM` and `REFLECTOR_ROM`, the spec's own default of two
parameters (spec/42_rotor.md R131, spec/43_reflector.md R171, spec/92_eei_decisions.md D7; log entry 7). -/
namespace Sys2Proof.Machine

/-- A wiring written as its letters in index order. -/
def wiringOfLetters (letters : Vector Char 26) : Wiring := Vector.ofFn fun i => BitVec.ofNat 8 letters[i].toNat

/-- `ROTOR_ROM` id 0, I: EKMFLGDQVZNTOWYHXUSPAIBRCJ, notch Q (42_rotor.md R131). -/
def rotorI : RotorSpec :=
  { wiring := wiringOfLetters #v['E','K','M','F','L','G','D','Q','V','Z','N','T','O','W','Y','H','X','U','S','P',
      'A','I','B','R','C','J']
    notch := 0x51#8 }

/-- `ROTOR_ROM` id 1, II: AJDKSIRUXBLHWTMCQGZNPYFVOE, notch E (42_rotor.md R131). -/
def rotorII : RotorSpec :=
  { wiring := wiringOfLetters #v['A','J','D','K','S','I','R','U','X','B','L','H','W','T','M','C','Q','G','Z','N',
      'P','Y','F','V','O','E']
    notch := 0x45#8 }

/-- `ROTOR_ROM` id 2, III: BDFHJLCPRTXVZNYEGWIKMQOUSA, notch V (42_rotor.md R131). -/
def rotorIII : RotorSpec :=
  { wiring := wiringOfLetters #v['B','D','F','H','J','L','C','P','R','T','X','V','Z','N','Y','E','G','W','I','K',
      'M','Q','O','U','S','A']
    notch := 0x56#8 }

/-- `ROTOR_ROM` id 3, IV: ESOVPZJAYQUIRHXLNFTGKDCMWB, notch J (42_rotor.md R131). -/
def rotorIV : RotorSpec :=
  { wiring := wiringOfLetters #v['E','S','O','V','P','Z','J','A','Y','Q','U','I','R','H','X','L','N','F','T','G',
      'K','D','C','M','W','B']
    notch := 0x4A#8 }

/-- `ROTOR_ROM` id 4, V: VZBRGITYUPSDNHLXAWMJQOFECK, notch Z (42_rotor.md R131). -/
def rotorV : RotorSpec :=
  { wiring := wiringOfLetters #v['V','Z','B','R','G','I','T','Y','U','P','S','D','N','H','L','X','A','W','M','J',
      'Q','O','F','E','C','K']
    notch := 0x5A#8 }

/-- `REFLECTOR_ROM` id 0, A: EJMZALYXVBWFCRQUONTSPIKHGD (43_reflector.md R171). -/
def reflectorA : Wiring :=
  wiringOfLetters #v['E','J','M','Z','A','L','Y','X','V','B','W','F','C','R','Q','U','O','N','T','S',
      'P','I','K','H','G','D']

/-- `REFLECTOR_ROM` id 1, B: YRUHQSLDPXNGOKMIEBFZCWVJAT (43_reflector.md R171). -/
def reflectorB : Wiring :=
  wiringOfLetters #v['Y','R','U','H','Q','S','L','D','P','X','N','G','O','K','M','I','E','B','F','Z',
      'C','W','V','J','A','T']

/-- `REFLECTOR_ROM` id 2, C: FVPJIAOYEDRZXWGCTKUQSBNMHL (43_reflector.md R171). -/
def reflectorC : Wiring :=
  wiringOfLetters #v['F','V','P','J','I','A','O','Y','E','D','R','Z','X','W','G','C','T','K','U','Q',
      'S','B','N','M','H','L']

/-- The default ROMs (42_rotor.md R131, 43_reflector.md R171). -/
def standardRoms : Roms :=
  { rotors := #v[rotorI, rotorII, rotorIII, rotorIV, rotorV]
    reflectors := #v[reflectorA, reflectorB, reflectorC] }

end Sys2Proof.Machine
end

