-- ==== Sys2Proof/Machine/Rotor.lean ====
section
/-! DEFINITION. Machine/Rotor.lean: rotors (spec/42_rotor.md): CFG_ROTOR, CFG_WIRE, CFG_ROTOR_RAW; the check and the
construction of a rotor at commit; notch test, step, rotor_forward_pass and rotor_backward_pass. -/
namespace Sys2Proof.Machine

/-- The record CFG_ROTOR stages (42_rotor.md R132). -/
def namedRotor (name : BitVec 3) (ring pos : Code) : StagedRotor :=
  { kind := .named, name := name, wire := blankWiring, notch := 0x00#8, ring := ring, pos := pos }

/-- The record CFG_ROTOR_RAW stages, with a copy of all 26 entries of `wbuf` (42_rotor.md R137). -/
def rawRotor (wbuf : Wiring) (ring pos notch : Code) : StagedRotor :=
  { kind := .raw, name := 0#3, wire := wbuf, notch := notch, ring := ring, pos := pos }

/-- CFG_ROTOR name, ring, pos: stage the next rotor from a named specification (42_rotor.md R132). -/
def execCfgRotor (name : BitVec 3) (ring pos : Code) (s : State) : Result :=
  respond .ok 0#16 { s with staging := stageRotor (namedRotor name ring pos) s.staging }

/-- CFG_WIRE index, sym: write one entry of the raw-wiring buffer (42_rotor.md R133). An index of 26..31 is no command
of R74: as the word that would carry it, it responds ILLEGAL_COMMAND with no state change (30_encoding.md R77). -/
def execCfgWire (index : BitVec 5) (sym : Code) (s : State) : Result :=
  match wireIndexOf index with
  | none => raise .illegalCommand s
  | some i => respond .ok 0#16 { s with staging := { s.staging with wbuf := s.staging.wbuf.set i.val sym i.isLt } }

/-- CFG_ROTOR_RAW ring, pos, notch: stage the next rotor from the raw-wiring buffer (42_rotor.md R137). -/
def execCfgRotorRaw (ring pos notch : Code) (s : State) : Result :=
  respond .ok 0#16 { s with staging := stageRotor (rawRotor s.staging.wbuf ring pos notch) s.staging }

/-- `check_rotor(k)` on the slot's record: the first failing status, or OK (42_rotor.md R144). -/
def checkRotor (rom : Roms) (e : StagedRotor) : Status :=
  firstFailure
    [ match e.kind with
      | .named => if (romRotor rom e.name).isNone then .unknownRotor else .ok
      | .raw => if IsLetterPermutation e.wire then .ok else .invalidWiring,
      if isLetter (upcase e.pos) then .ok else .invalidSymbol ]

/-- The wiring codes `W` and the notch code `NC` of a staged rotor (42_rotor.md R134). Where the name is unknown,
CFG_COMMIT has already failed and nothing is built: the value given then is never used (log entry 12). -/
def rotorSource (rom : Roms) (e : StagedRotor) : RotorSpec :=
  match e.kind with
  | .named => (romRotor rom e.name).getD { wiring := e.wire, notch := e.notch }
  | .raw => { wiring := e.wire, notch := e.notch }

/-- `fwd[k]` of a staged rotor (42_rotor.md R134). -/
def builtFwd (rom : Roms) (e : StagedRotor) : Table := wiringIndices (rotorSource rom e).wiring

/-- `notch_en[k]`: whether the notch symbol is a letter, with no case normalisation (42_rotor.md R136). -/
def builtNotchEn (rom : Roms) (e : StagedRotor) : Bool := isLetter (rotorSource rom e).notch

/-- `notch_idx[k]`: the notch letter's index, or 0 (42_rotor.md R136). -/
def builtNotchIdx (rom : Roms) (e : StagedRotor) : Idx :=
  if isLetter (rotorSource rom e).notch then letterIndex (rotorSource rom e).notch else 0

/-- `at_notch(k)`; the ring offset does not enter (42_rotor.md R138). -/
def atNotch (s : State) (k : Slot) : Bool := s.active.notchEn[k] && s.pos[k] == s.active.notchIdx[k]

/-- `step(k)`: advance one rotor (42_rotor.md R139). -/
def stepRotor (k : Slot) (s : State) : State :=
  { s with pos := s.pos.set k.val (mod26 ((s.pos[k].val : Int) + 1)) k.isLt }

/-- The pass formula of both directions (42_rotor.md R140, R141): shift by the position less the ring offset, look the
table up, and shift back. -/
def rotorPass (t : Table) (pos ring x : Idx) : Idx :=
  let shifted := mod26 ((x.val : Int) + pos.val - ring.val)
  let mapped := t[shifted]
  mod26 ((mapped.val : Int) - pos.val + ring.val)

/-- `rotor_forward_pass(k, x)` (42_rotor.md R140). -/
def rotorForwardPass (s : State) (k : Slot) (x : Idx) : Idx := rotorPass s.active.fwd[k] s.pos[k] s.active.ring[k] x

/-- `rotor_backward_pass(k, x)` (42_rotor.md R141). -/
def rotorBackwardPass (s : State) (k : Slot) (x : Idx) : Idx := rotorPass s.active.bwd[k] s.pos[k] s.active.ring[k] x

end Sys2Proof.Machine
end

