-- ==== Sys2Proof/Machine/Engine.lean ====
section
/-! DEFINITION. Machine/Engine.lean: the machine-level commands (spec/44_machine.md): CFG_CLEAR, CFG_COMMIT,
rotor_position_stepper, character_encode_pipeline (ENCODE_CHAR), SET_POSITION, READ_STATE, and the ILLEGAL outcome. -/
namespace Sys2Proof.Machine

/-- CFG_CLEAR: empty the staging area; the active configuration, `cfg_valid` and `pos` stay (44_machine.md R191). -/
def execCfgClear (s : State) : Result := respond .ok 0#16 { s with staging := Staging.cleared }

/-- `validate()`: the checks of CFG_COMMIT in their order (44_machine.md R194; 60_exceptions.md R254). -/
def validate (rom : Roms) (g : Staging) : Status :=
  firstFailure
    [ if g.count = 3 then .ok else .invalidRotorCount,
      checkRotor rom g.rot[0],
      checkRotor rom g.rot[1],
      checkRotor rom g.rot[2],
      checkReflector rom g,
      plugErrStatus g.plugErr ]

/-- The active configuration that `commit_build()` writes over `old` (44_machine.md R196). -/
def builtActive (rom : Roms) (g : Staging) (old : Active) : Active :=
  { ring := Vector.ofFn fun k => ringOffset g.rot[k].ring
    notchEn := Vector.ofFn fun k => builtNotchEn rom g.rot[k]
    notchIdx := Vector.ofFn fun k => builtNotchIdx rom g.rot[k]
    fwd := Vector.ofFn fun k => builtFwd rom g.rot[k]
    bwd := Vector.ofFn fun k => fillInverse (builtFwd rom g.rot[k]) old.bwd[k]
    refl := builtRefl rom g
    plug := g.plug }

/-- The positions that `commit_build()` writes: `l2i(upcase(stg_rot[k].pos))` (44_machine.md R196). -/
def builtPos (g : Staging) : Vector Idx 3 := Vector.ofFn fun k => letterIndex (upcase g.rot[k].pos)

/-- `commit_fail(st)` (44_machine.md R195). -/
def commitFail (st : Status) (s : State) : Result := respond st 0#16 { s with cfgValid := false }

/-- `commit_build()` (44_machine.md R196). -/
def commitBuild (rom : Roms) (s : State) : Result :=
  respond .ok 0#16
    { s with
      active := builtActive rom s.staging s.active
      pos := builtPos s.staging
      cfgValid := true }

/-- CFG_COMMIT over the ROMs as a parameter (44_machine.md R193; 10_state.md R20). -/
def commit (rom : Roms) (s : State) : Result :=
  if validate rom s.staging = .ok then commitBuild rom s else commitFail (validate rom s.staging) s

/-- CFG_COMMIT: validate the staging area and build the machine (44_machine.md R193), under the default ROMs. -/
def execCfgCommit (s : State) : Result := commit standardRoms s

/-- `step_rotors()`: the notch tests on the positions before this step, then left and middle, or middle, and the right
rotor unconditionally (44_machine.md R198). -/
def stepRotors (s : State) : State :=
  let midAtNotch := atNotch s 1
  let rightAtNotch := atNotch s 2
  if midAtNotch then stepRotor 2 (stepRotor 1 (stepRotor 0 s))
  else if rightAtNotch then stepRotor 2 (stepRotor 1 s)
  else stepRotor 2 s

/-- `E_p(x)`: the keypress permutation at the state's positions (44_machine.md R203 stages 3 to 7, R204). -/
def keypress (s : State) (x : Idx) : Idx :=
  let x := swap s x
  let x := rotorForwardPass s 2 x
  let x := rotorForwardPass s 1 x
  let x := rotorForwardPass s 0 x
  let x := reflect s x
  let x := rotorBackwardPass s 0 x
  let x := rotorBackwardPass s 1 x
  let x := rotorBackwardPass s 2 x
  swap s x

/-- ENCODE_CHAR c: encode one character (44_machine.md R205). -/
def execEncodeChar (c : Code) (s : State) : Result :=
  if s.cfgValid = false then raise .notConfigured s
  else if isLetter (upcase c) = false then respond .ok (zext16 c) s
  else
    let t := stepRotors s
    respond .ok (zext16 (i2l (keypress t (letterIndex (upcase c))).val)) t

/-- SET_POSITION slot, sym: overwrite one rotor's position (44_machine.md R210). Slot 3 is no command of R74: as the
word that would carry it, it responds ILLEGAL_COMMAND before anything else (30_encoding.md R77). -/
def execSetPosition (slot : BitVec 2) (sym : Code) (s : State) : Result :=
  match slotOf slot with
  | none => raise .illegalCommand s
  | some k =>
    if s.cfgValid = false then raise .notConfigured s
    else if isLetter (upcase sym) = false then raise .invalidSymbol s
    else respond .ok 0#16 { s with pos := s.pos.set k.val (letterIndex (upcase sym)) k.isLt }

/-- The state summary `{cfg_valid, pos[0], pos[1], pos[2]}` (44_machine.md R212). -/
def stateSummary (s : State) : BitVec 16 :=
  BitVec.ofBool s.cfgValid ++ idxBits s.pos[0] ++ idxBits s.pos[1] ++ idxBits s.pos[2]

/-- READ_STATE: report `cfg_valid` and the three positions (44_machine.md R212). -/
def execReadState (s : State) : Result := respond .ok (stateSummary s) s

/-- ILLEGAL: "`respond(ILLEGAL_COMMAND, 0)`", no state written (44_machine.md R213). -/
def illegalCommand (s : State) : Result := raise .illegalCommand s

end Sys2Proof.Machine
end

