-- ==== Sys2Proof/Machine/Accept.lean ====
section
/-! DEFINITION. Machine/Accept.lean: what the engine does with one host input (spec/70_reset_and_hazards.md R292): a
command word, or the reset input. What a decoded command does is the argument `run`: exec, or exec over other ROMs
(Machine/OverRoms.lean). -/
namespace Sys2Proof.Machine

/-- One command word: decoding comes before any state is read (60_exceptions.md R254), an ILLEGAL word responds
ILLEGAL_COMMAND (44_machine.md R213), and any other runs its command. -/
def runWord (run : Instr → State → Result) (w : Word) (s : State) : Result :=
  match decode w with
  | .ok i => run i s
  | .error _ => illegalCommand s

/-- Reset: "every field of 10_state.md takes the value of 10_state.md rule R39" (70_reset_and_hazards.md R280); what
the host has presented and what it has been answered stand outside the block and stay. -/
def resetBlock (s : State) : State :=
  { State.reset with pending := s.pending, responses := s.responses, freeCount := s.freeCount }

/-- Reset while word `w` is in flight: the command took effect whole or not at all, reset overwrites the state either
way, and only the response may be lost (70_reset_and_hazards.md R280; 93_implementation_defined.md U4). Which it is
is a free value (log entry 6). DESIGN CHOICE (log entry 17): every engine draws the one constant at its own `freeCount`,
so two engines at equal counts lose or keep a response alike, where the spec leaves each loss open. -/
def resetDuring (run : Instr → State → Result) (w : Word) (s : State) : Result :=
  let t := { s with freeCount := s.freeCount + 1 }
  if Config.responseLost s.freeCount then .next (resetBlock t)
  else
    match runWord run w t with
    | .next u => .next (resetBlock u)
    | .fault r => .fault r
    | .refused r => .refused r

/-- Accept one host input. -/
def accept (run : Instr → State → Result) (input : HostInput) (s : State) : Result :=
  match input with
  | .command w => runWord run w s
  | .reset => .next (resetBlock s)
  | .resetInFlight w => resetDuring run w s

/-- One step: the oldest presented input is accepted whole, in the order the host presented them (20_memory.md R55,
R58); with nothing presented the block "idles between commands with its state held" (60_exceptions.md R265; log entry
3). -/
def stepWith (run : Instr → State → Result) (s : State) : Result :=
  match s.pending with
  | [] => .next s
  | input :: rest => accept run input { s with pending := rest }

end Sys2Proof.Machine
end

