-- ==== Sys2Proof/Machine/Dispatch.lean ====
section
/-! DEFINITION. Machine/Dispatch.lean: which meaning each command of spec/opcode_table.json has, one arm per row. -/
namespace Sys2Proof.Machine

def exec (i : Instr) (s : State) : Host.Outcome State Fault Refusal :=
  match i with
  | .cfgClear => Sys2Proof.Machine.execCfgClear s
  | .cfgRotor name ring pos => Sys2Proof.Machine.execCfgRotor name ring pos s
  | .cfgWire index sym => Sys2Proof.Machine.execCfgWire index sym s
  | .cfgRotorRaw ring pos notch => Sys2Proof.Machine.execCfgRotorRaw ring pos notch s
  | .cfgReflector name => Sys2Proof.Machine.execCfgReflector name s
  | .cfgReflectorRaw => Sys2Proof.Machine.execCfgReflectorRaw s
  | .cfgPlug a b => Sys2Proof.Machine.execCfgPlug a b s
  | .cfgCommit => Sys2Proof.Machine.execCfgCommit s
  | .encodeChar c => Sys2Proof.Machine.execEncodeChar c s
  | .setPosition slot sym => Sys2Proof.Machine.execSetPosition slot sym s
  | .readState => Sys2Proof.Machine.execReadState s

end Sys2Proof.Machine
end

