-- ==== Sys2Proof/Machine/Step.lean ====
section
/-! DEFINITION. Machine/Step.lean: one step of the block (spec/20_memory.md R55, R58): the engine accepts the oldest
host input it has been presented. -/
namespace Sys2Proof.Machine

/-- One step of the block with the default ROMs (42_rotor.md R131, 43_reflector.md R171; `stepOver` takes any). -/
def step (s : State) : Host.Outcome State Fault Refusal := stepWith exec s

/-- `s` with the word presented so that the very next step accepts it (log entry 1). -/
def State.withFetchWord (s : State) (nbits w : Nat) : State :=
  { s with pending := HostInput.command (BitVec.ofNat 32 (w % 2 ^ nbits)) :: s.pending }

end Sys2Proof.Machine
end

