-- ==== Sys2Proof/Machine/Pseudo.lean ====
section
/-! DEFINITION. Machine/Pseudo.lean: the host-side pseudo-commands (spec/30_encoding.md R80 to R83, spec/92_eei_decisions.md
D31): "not hardware commands", "their meaning is their expansion". -/
namespace Sys2Proof.Machine

/-- One element of the constructor's rotor lists: name, ring setting, initial position (30_encoding.md R80). -/
structure RotorChoice where
  name : BitVec 3
  ring : Code
  pos  : Code
  deriving DecidableEq, Repr

/-- The arguments of the source's `from_configuration` (44_machine.md R192). -/
structure Configuration where
  rotors : List RotorChoice
  refl   : BitVec 3
  pairs  : List (Code × Code)
  deriving DecidableEq, Repr

/-- CONFIGURE (30_encoding.md R80): one CFG_ROTOR per rotor, one CFG_PLUG per pair in the given order. -/
def configure (c : Configuration) : List Instr :=
  .cfgClear :: c.rotors.map (fun r => .cfgRotor r.name r.ring r.pos)
    ++ .cfgReflector c.refl :: c.pairs.map (fun p => .cfgPlug p.1 p.2)
    ++ [.cfgCommit]

/-- ENCODE_STR (30_encoding.md R82): one ENCODE_CHAR per code, in order. -/
def encodeStr (text : List Code) : List Instr := text.map .encodeChar

/-- LOAD_WIRING (30_encoding.md R83): the first 26 codes in index order, and CFG_WIRE 0, 0x00 after them when the string
is longer than 26 codes. -/
def loadWiring (codes : List Code) : List Instr :=
  (codes.take 26).zipIdx.map (fun p => .cfgWire (BitVec.ofNat 5 p.2) p.1)
    ++ (if 26 < codes.length then [.cfgWire 0#5 0x00#8] else [])

/-- RESTART (30_encoding.md R83; 44_machine.md R209). -/
def restart : List Instr := [.cfgCommit]

/-- ASCII whitespace: codes 0x09 to 0x0D and 0x20 (30_encoding.md R81). -/
def isWhitespace (c : Code) : Bool := (decide (0x09#8 ≤ c) && decide (c ≤ 0x0D#8)) || c == 0x20#8

/-- Leading and trailing whitespace removed, inner whitespace kept (30_encoding.md R81). -/
def trimCodes (codes : List Code) : List Code :=
  ((codes.dropWhile isWhitespace).reverse.dropWhile isWhitespace).reverse

/-- The pair-string form of CFG_PLUG (30_encoding.md R81). -/
def plugString (codes : List Code) : Instr :=
  match trimCodes codes with
  | [x, y] => .cfgPlug x y
  | _ => .cfgPlug 0x00#8 0x00#8

/-- The state with a list of commands presented, as words, after what is already presented. -/
def present (is : List Instr) (s : State) : State :=
  { s with pending := s.pending ++ is.map fun i => HostInput.command (encode i) }

end Sys2Proof.Machine
end

