-- ==== Sys2Proof/Machine/Assembler.lean ====
section
/-! DEFINITION. Machine/Assembler.lean: the assembler syntax (spec/30_encoding.md R79 to R83): one command or
pseudo-command per line, operands separated by commas, `;` starting a comment. "The assembler refuses a line it cannot
encode" (R79). Tooling only (spec/92_eei_decisions.md D32); what R79 leaves open is log entry 15. -/
namespace Sys2Proof.Machine

/-- The pieces of a line. -/
inductive Token where
  | word (cs : List Char)
  | chr (c : Char)
  | str (cs : List Char)
  | comma
  | lbrack
  | rbrack
  deriving DecidableEq, Repr

/-- Where the scanner stands in a line. -/
inductive LexMode where
  | between
  | inWord (acc : List Char)
  | afterQuote
  | afterChr (c : Char)
  | inStr (acc : List Char)
  deriving DecidableEq, Repr

/-- The apostrophe around a character literal. -/
def quoteChar : Char := Char.ofNat 0x27

/-- The double quote around a string. -/
def doubleQuoteChar : Char := Char.ofNat 0x22

/-- Space, tab or carriage return. -/
def isBlankChar (c : Char) : Bool := c == ' ' || c.toNat == 9 || c.toNat == 13

/-- The one-character tokens. -/
def punctuation (c : Char) : Option Token :=
  if c = ',' then some .comma else if c = '[' then some .lbrack else if c = ']' then some .rbrack else none

/-- A line's tokens; none where a literal does not close. A `;` outside a literal starts a comment (R79). DESIGN CHOICE
(log entry 15): the spec gives a string no escape (R81, R82), and there is none here, so 0x22 always closes a string and
a line ends at 0x0A: neither code can be written in a string operand. -/
def lex : LexMode → List Char → Option (List Token)
  | .between, [] => some []
  | .inWord acc, [] => some [.word acc.reverse]
  | .afterQuote, [] => none
  | .afterChr _, [] => none
  | .inStr _, [] => none
  | .between, c :: cs =>
    if c = ';' then some []
    else if isBlankChar c then lex .between cs
    else if c = quoteChar then lex .afterQuote cs
    else if c = doubleQuoteChar then lex (.inStr []) cs
    else match punctuation c with
      | some t => (lex .between cs).map (t :: ·)
      | none => lex (.inWord [c]) cs
  | .inWord acc, c :: cs =>
    if c = ';' then some [.word acc.reverse]
    else if isBlankChar c then (lex .between cs).map (.word acc.reverse :: ·)
    else if c = quoteChar ∨ c = doubleQuoteChar then none
    else match punctuation c with
      | some t => (lex .between cs).map (fun ts => .word acc.reverse :: t :: ts)
      | none => lex (.inWord (c :: acc)) cs
  | .afterQuote, c :: cs => lex (.afterChr c) cs
  | .afterChr c, d :: cs => if d = quoteChar then (lex .between cs).map (.chr c :: ·) else none
  | .inStr acc, c :: cs =>
    if c = doubleQuoteChar then (lex .between cs).map (.str acc.reverse :: ·) else lex (.inStr (c :: acc)) cs

/-- A decimal digit's value. -/
def decDigit (c : Char) : Option Nat :=
  if 0x30 ≤ c.toNat ∧ c.toNat ≤ 0x39 then some (c.toNat - 0x30) else none

/-- A hexadecimal digit's value, in either case. -/
def hexDigit (c : Char) : Option Nat :=
  if 0x41 ≤ c.toNat ∧ c.toNat ≤ 0x46 then some (c.toNat - 0x37)
  else if 0x61 ≤ c.toNat ∧ c.toNat ≤ 0x66 then some (c.toNat - 0x57)
  else decDigit c

/-- The digits of a decimal number, read after those of `acc`. -/
def decDigits (acc : Nat) : List Char → Option Nat
  | [] => some acc
  | c :: cs => (decDigit c).bind fun d => decDigits (10 * acc + d) cs

/-- A decimal number of at least one digit. -/
def natOperand : List Char → Option Nat
  | [] => none
  | c :: cs => decDigits 0 (c :: cs)

/-- A decimal integer, with a minus sign where it is negative. -/
def intOperand : List Char → Option Int
  | [] => none
  | c :: cs => if c = '-' then (natOperand cs).map fun n => -(n : Int) else (natOperand (c :: cs)).map fun n => (n : Int)

/-- A code operand: a character literal, "ASCII for printable characters", or `0xNN` "for any code" (R79). -/
def codeOperand : Token → Option Code
  | .chr c => if 0x20 ≤ c.toNat ∧ c.toNat ≤ 0x7E then some (BitVec.ofNat 8 c.toNat) else none
  | .word [z, x, h, l] =>
    if z = '0' ∧ x = 'x' then
      (hexDigit h).bind fun a => (hexDigit l).map fun b => BitVec.ofNat 8 (16 * a + b)
    else none
  | _ => none

/-- A ring setting: "decimal -128..127" (R79). -/
def ringOperand : Token → Option Code
  | .word cs => (intOperand cs).bind fun r => if -128 ≤ r ∧ r ≤ 127 then some (BitVec.ofInt 8 r) else none
  | _ => none

/-- `#n` "for a raw id 0..7" (R79). -/
def rawIdOperand (cs : List Char) : Option (BitVec 3) :=
  match cs with
  | [h, d] => if h = '#' then (decDigit d).bind fun n => if n ≤ 7 then some (BitVec.ofNat 3 n) else none else none
  | _ => none

/-- A rotor name: `I` to `V`, or `#n` (R79). -/
def rotorOperand : Token → Option (BitVec 3)
  | .word cs =>
    if cs = "I".toList then some 0#3
    else if cs = "II".toList then some 1#3
    else if cs = "III".toList then some 2#3
    else if cs = "IV".toList then some 3#3
    else if cs = "V".toList then some 4#3
    else rawIdOperand cs
  | _ => none

/-- A reflector name: `A`, `B`, `C`, or `#n` (R79). -/
def reflectorOperand : Token → Option (BitVec 3)
  | .word cs =>
    if cs = "A".toList then some 0#3
    else if cs = "B".toList then some 1#3
    else if cs = "C".toList then some 2#3
    else rawIdOperand cs
  | _ => none

/-- A wiring index: "decimal 0..25" (R79). -/
def wireIndexOperand : Token → Option (BitVec 5)
  | .word cs => (natOperand cs).bind fun n => if n ≤ 25 then some (BitVec.ofNat 5 n) else none
  | _ => none

/-- A slot: `L`, `M` or `R` (R79). -/
def slotOperand : Token → Option (BitVec 2)
  | .word cs =>
    if cs = "L".toList then some 0#2 else if cs = "M".toList then some 1#2 else if cs = "R".toList then some 2#2 else none
  | _ => none

/-- Text as codes, or the position of the first character above U+00FF: "refuses, by position, any character above
U+00FF" (93_implementation_defined.md U15; log entry 16). -/
def transcribe (at_ : Nat) : List Char → Except Nat (List Code)
  | [] => .ok []
  | c :: cs =>
    if c.toNat ≤ 0xFF then
      match transcribe (at_ + 1) cs with
      | .ok codes => .ok (BitVec.ofNat 8 c.toNat :: codes)
      | .error p => .error p
    else .error at_

/-- A string operand as codes. -/
def stringOperand : Token → Option (List Code)
  | .str cs =>
    match transcribe 0 cs with
    | .ok codes => some codes
    | .error _ => none
  | _ => none

/-- `[item, ..., item]`: the items, one token each, and the tokens after the closing bracket. DESIGN CHOICE (log entry
15): the spec does not say what a comma before the closing bracket means (R80), and it is read as if it were not there. -/
def bracketItems : List Token → Option (List Token × List Token)
  | .rbrack :: rest => some ([], rest)
  | t :: .rbrack :: rest => some ([t], rest)
  | t :: .comma :: rest => (bracketItems rest).map fun p => (t :: p.1, p.2)
  | _ => none

/-- A list operand at the head of the operands. -/
def listOperand : List Token → Option (List Token × List Token)
  | .lbrack :: rest => bracketItems rest
  | _ => none

/-- The operands after a comma. -/
def afterComma : List Token → Option (List Token)
  | .comma :: rest => some rest
  | _ => none

/-- The rotors of CONFIGURE: one of each list per rotor; lists of unequal length cannot be expressed (R80). -/
def rotorChoices : List Token → List Token → List Token → Option (List RotorChoice)
  | [], [], [] => some []
  | n :: ns, r :: rs, p :: ps => do
    let name ← rotorOperand n
    let ring ← ringOperand r
    let pos ← codeOperand p
    let rest ← rotorChoices ns rs ps
    some ({ name := name, ring := ring, pos := pos } :: rest)
  | _, _, _ => none

/-- The two codes that the pair-string form emits (R81). -/
def pairOfString (codes : List Code) : Code × Code :=
  match plugString codes with
  | .cfgPlug a b => (a, b)
  | _ => (0x00#8, 0x00#8)

/-- `CONFIGURE [n0,n1,n2], [r0,r1,r2], [p0,p1,p2], refl, [pair_1, ..., pair_m]` (R80). -/
def configureLine (args : List Token) : Option (List Instr) := do
  let (names, a1) ← listOperand args
  let a2 ← afterComma a1
  let (rings, a3) ← listOperand a2
  let a4 ← afterComma a3
  let (places, a5) ← listOperand a4
  let a6 ← afterComma a5
  match a6 with
  | r :: .comma :: a7 =>
    let refl ← reflectorOperand r
    let (pairs, a8) ← listOperand a7
    let rotors ← rotorChoices names rings places
    let texts ← pairs.mapM stringOperand
    if a8 = [] then some (configure { rotors := rotors, refl := refl, pairs := texts.map pairOfString }) else none
  | _ => none

/-- The commands of one operation and its operands, or none where the assembler refuses the line (R79 to R83). -/
def assembleOperation (m : List Char) (args : List Token) : Option (List Instr) :=
  if m = "CFG_CLEAR".toList then if args = [] then some [.cfgClear] else none
  else if m = "CFG_ROTOR".toList then
    match args with
    | [n, .comma, r, .comma, p] => do
      some [.cfgRotor (← rotorOperand n) (← ringOperand r) (← codeOperand p)]
    | _ => none
  else if m = "CFG_WIRE".toList then
    match args with
    | [i, .comma, c] => do some [.cfgWire (← wireIndexOperand i) (← codeOperand c)]
    | _ => none
  else if m = "CFG_ROTOR_RAW".toList then
    match args with
    | [r, .comma, p, .comma, n] => do
      some [.cfgRotorRaw (← ringOperand r) (← codeOperand p) (← codeOperand n)]
    | _ => none
  else if m = "CFG_REFLECTOR".toList then
    match args with
    | [n] => do some [.cfgReflector (← reflectorOperand n)]
    | _ => none
  else if m = "CFG_REFLECTOR_RAW".toList then if args = [] then some [.cfgReflectorRaw] else none
  else if m = "CFG_PLUG".toList then
    match args with
    | [a, .comma, b] => do some [.cfgPlug (← codeOperand a) (← codeOperand b)]
    | [t] => (stringOperand t).map fun codes => [plugString codes]
    | _ => none
  else if m = "CFG_COMMIT".toList then if args = [] then some [.cfgCommit] else none
  else if m = "ENCODE_CHAR".toList then
    match args with
    | [c] => do some [.encodeChar (← codeOperand c)]
    | _ => none
  else if m = "SET_POSITION".toList then
    match args with
    | [k, .comma, c] => do some [.setPosition (← slotOperand k) (← codeOperand c)]
    | _ => none
  else if m = "READ_STATE".toList then if args = [] then some [.readState] else none
  else if m = "CONFIGURE".toList then configureLine args
  else if m = "ENCODE_STR".toList then
    match args with
    | [t] => (stringOperand t).map encodeStr
    | _ => none
  else if m = "LOAD_WIRING".toList then
    match args with
    | [t] => (stringOperand t).map loadWiring
    | _ => none
  else if m = "RESTART".toList then if args = [] then some restart else none
  else none

/-- One line: nothing, or one command or pseudo-command. -/
def assembleLine (line : List Char) : Option (List Instr) :=
  match lex .between line with
  | some [] => some []
  | some (.word m :: args) => assembleOperation m args
  | _ => none

/-- A program's lines as commands, or the number of the first line refused. -/
def assembleLines (at_ : Nat) : List (List Char) → Except Nat (List Instr)
  | [] => .ok []
  | line :: lines =>
    match assembleLine line with
    | none => .error at_
    | some is =>
      match assembleLines (at_ + 1) lines with
      | .ok rest => .ok (is ++ rest)
      | .error n => .error n

/-- The command words of a program's text, or the number (from 0) of the first line refused. -/
def assemble (text : List Char) : Except Nat (List Word) :=
  match assembleLines 0 (text.splitOn (Char.ofNat 10)) with
  | .ok is => .ok (is.map encode)
  | .error n => .error n

end Sys2Proof.Machine
end

