-- ==== Sys2Proof/Machine/OverRoms.lean ====
section
/-! DEFINITION. Machine/OverRoms.lean: the block over any `ROTOR_ROM` and `REFLECTOR_ROM`, "parameters of the engine's
step" (spec/10_state.md R20; spec/00_scope.md R6; spec/93_implementation_defined.md U8, "arguments of the model"). The
fixed names exec, step and core are these over the default ROMs (Laws/OverRoms.lean; log entry 7). -/
namespace Sys2Proof.Machine

/-- A command over any ROMs: only CFG_COMMIT reaches them (20_memory.md R50). -/
def execOver (rom : Roms) (i : Instr) (s : State) : Result :=
  match i with
  | .cfgClear => execCfgClear s
  | .cfgRotor name ring pos => execCfgRotor name ring pos s
  | .cfgWire index sym => execCfgWire index sym s
  | .cfgRotorRaw ring pos notch => execCfgRotorRaw ring pos notch s
  | .cfgReflector name => execCfgReflector name s
  | .cfgReflectorRaw => execCfgReflectorRaw s
  | .cfgPlug a b => execCfgPlug a b s
  | .cfgCommit => commit rom s
  | .encodeChar c => execEncodeChar c s
  | .setPosition slot sym => execSetPosition slot sym s
  | .readState => execReadState s

/-- The engine's step with the ROMs as its parameter (10_state.md R20). -/
def stepOver (rom : Roms) (s : State) : Result := stepWith (execOver rom) s

/-- The block built with given ROMs. Reset leaves them unchanged (70_reset_and_hazards.md R280), as it does here: they
are no part of the state. -/
def coreOver (rom : Roms) : Host.Core :=
  { State := State, Fault := Fault, Refusal := Refusal, step := stepOver rom, reset := State.reset }

end Sys2Proof.Machine
end

