-- ==== Sys2Proof/Machine/Platform.lean ====
section
/-! DEFINITION. Machine/Platform.lean: several engines on one platform (spec/10_state.md R38, spec/60_exceptions.md
R263): each has its own state, none shares state with another, and no order holds between them. A schedule, the list of
the engines that step one after another, stands for one interleaving (log entry 14). The
engines draw their free values from one constant, each at its own count (log entry 17). -/
namespace Sys2Proof.Machine

/-- The engines of a platform, each with its own host port. -/
abbrev Platform := List State

/-- Engine `j` takes one step; a number that is no engine of the platform steps nothing. -/
def stepEngine (j : Nat) (p : Platform) : Platform :=
  match p[j]? with
  | none => p
  | some s =>
    match step s with
    | .next t => p.set j t
    | .fault _ => p
    | .refused _ => p

/-- The platform after the engines have stepped in the order of a schedule. -/
def runSchedule (schedule : List Nat) (p : Platform) : Platform := schedule.foldl (fun q j => stepEngine j q) p

end Sys2Proof.Machine
end

