-- ==== Sys2Proof/Safety.lean ====
section
/-! DEFINITION. Safety.lean: the terms the statements use: what makes a configuration good and a state safe
(spec/10_state.md R30, spec/41_plugboard.md R116), what a command leaves alone, which words are ILLEGAL
(spec/30_encoding.md R76), and which staged configurations commit (spec/44_machine.md R194). -/
namespace Sys2Proof.Machine

/-- "the mapping is its own inverse (`map[map[x]] == x` for all x)" (10_state.md R30; 00_scope.md R12). -/
abbrev Involutive (t : Table) : Prop := ∀ x : Idx, t[t[x]] = x

/-- "`refl[i] != i` for every i" (43_reflector.md R172). -/
abbrev NoFixedPoint (t : Table) : Prop := ∀ x : Idx, t[x] ≠ x

/-- `f` is a permutation and `b` is its inverse (10_state.md R27, R30). -/
abbrev InverseTables (f b : Table) : Prop := (∀ i : Idx, b[f[i]] = i) ∧ ∀ i : Idx, f[b[i]] = i

/-- The invariants of the active configuration (10_state.md R30, and R26's "`notch_idx[k] = 0`" where the notch is
disabled); its ranges are in the types. -/
abbrev Active.Good (a : Active) : Prop :=
  (∀ k : Slot, InverseTables a.fwd[k] a.bwd[k])
    ∧ Involutive a.plug
    ∧ ∀ k : Slot, a.notchEn[k] = false → a.notchIdx[k] = 0

/-- A safe state: `stg_plug` is an involution (41_plugboard.md R116), and "whenever `cfg_valid = 1`" the active
configuration is good (10_state.md R30). -/
abbrev State.Inv (s : State) : Prop := Involutive s.staging.plug ∧ (s.cfgValid = true → s.active.Good)

/-- ROMs that may replace the default ones: "Any replacement table must keep every wiring a permutation", and "Every
ROTOR_ROM notch is a letter" (42_rotor.md R131, R136). -/
abbrev RomsSound (rom : Roms) : Prop :=
  ∀ n : Fin 5, IsLetterPermutation rom.rotors[n].wiring ∧ isLetter rom.rotors[n].notch = true

/-- Two states hold the same block: every field of 10_state.md agrees; the host's port may differ. -/
abbrev SameBlock (s t : State) : Prop :=
  t.pos = s.pos ∧ t.cfgValid = s.cfgValid ∧ t.active = s.active ∧ t.staging = s.staging

/-- The machine that encodes is untouched: positions, `cfg_valid` and the active configuration. -/
abbrev MachineUnmoved (s t : State) : Prop := t.pos = s.pos ∧ t.cfgValid = s.cfgValid ∧ t.active = s.active

/-- Exactly one response, `w`, was delivered, and nothing else happened at the host's port. -/
abbrev Answered (s t : State) (w : Word) : Prop :=
  t.responses = s.responses ++ [w] ∧ t.pending = s.pending ∧ t.freeCount = s.freeCount

/-- The status byte of a response word, `r[31:24]` (30_encoding.md R72). -/
def responseStatus (r : Word) : BitVec 8 := field r 24 8

/-- The data of a response word, `r[15:0]` (30_encoding.md R72). -/
def responseData (r : Word) : BitVec 16 := field r 0 16

/-- The code a response to ENCODE_CHAR carries, `data[7:0]` (30_encoding.md R72, R82). -/
def responseCode (r : Word) : Code := field r 0 8

/-- Commands one after another, each on the state the one before it left (20_memory.md R58). -/
def execAll : List Instr → State → Result
  | [], s => .next s
  | i :: is, s =>
    match exec i s with
    | .next t => execAll is t
    | .fault r => .fault r
    | .refused r => .refused r

/-- The reserved bits of each opcode's format: every bit that is `0` in 30_encoding.md R71 (R75). -/
def reservedBits (op : Nat) : Word :=
  match op with
  | 1 => 0x0FFFFFFF#32
  | 2 => 0x080000FF#32
  | 3 => 0x0FE0FF00#32
  | 4 => 0x0F000000#32
  | 5 => 0x08FFFFFF#32
  | 6 => 0x0FFFFFFF#32
  | 7 => 0x0FFF0000#32
  | 8 => 0x0FFFFFFF#32
  | 9 => 0x0FFFFF00#32
  | 10 => 0x0CFFFF00#32
  | 11 => 0x0FFFFFFF#32
  | _ => 0#32

/-- The ILLEGAL words, bullet by bullet (30_encoding.md R76): an undefined opcode, a reserved bit set (R75), or an
operand out of range (R77). -/
def IllegalWord (w : Word) : Prop :=
  ((opcode w).toNat = 0 ∨ 12 ≤ (opcode w).toNat)
    ∨ w &&& reservedBits (opcode w).toNat ≠ 0#32
    ∨ ((opcode w).toNat = 3 ∧ 26 ≤ (field w 16 5).toNat)
    ∨ ((opcode w).toNat = 10 ∧ field w 24 2 = 3#2)

/-- The staged rotor's name or wiring is accepted (42_rotor.md R144). -/
def RotorSourceOk (e : StagedRotor) : Prop :=
  match e.kind with
  | .named => e.name.toNat ≤ 4
  | .raw => IsLetterPermutation e.wire

/-- The staged rotor passes `check_rotor` (42_rotor.md R144). -/
def RotorOk (e : StagedRotor) : Prop := RotorSourceOk e ∧ isLetter (upcase e.pos) = true

/-- The staged reflector passes `check_reflector` (43_reflector.md R175). -/
def ReflectorOk (g : Staging) : Prop :=
  match g.reflKind with
  | .none => False
  | .named => g.reflName.toNat ≤ 2
  | .raw => ∀ i : Idx, isLetter g.reflWire[i] = true

/-- The staging area holds a machine: every check of 44_machine.md R194 passes. -/
def Committable (g : Staging) : Prop :=
  g.count = 3 ∧ (∀ k : Slot, RotorOk g.rot[k]) ∧ ReflectorOk g ∧ g.plugErr = .none

/-- The staging commands: the commands that report only OK or ILLEGAL_COMMAND and build the staging area
(60_exceptions.md R253). -/
def isStaging : Instr → Bool
  | .cfgClear => true
  | .cfgRotor _ _ _ => true
  | .cfgWire _ _ => true
  | .cfgRotorRaw _ _ _ => true
  | .cfgReflector _ => true
  | .cfgReflectorRaw => true
  | .cfgPlug _ _ => true
  | .cfgCommit => false
  | .encodeChar _ => false
  | .setPosition _ _ => false
  | .readState => false

/-- The commands that stage a rotor (10_state.md R32). -/
def stagesRotor : Instr → Bool
  | .cfgClear => false
  | .cfgRotor _ _ _ => true
  | .cfgWire _ _ => false
  | .cfgRotorRaw _ _ _ => true
  | .cfgReflector _ => false
  | .cfgReflectorRaw => false
  | .cfgPlug _ _ => false
  | .cfgCommit => false
  | .encodeChar _ => false
  | .setPosition _ _ => false
  | .readState => false

/-- A character that steps the rotors: a letter after `upcase` (00_scope.md R12 "keypress"; 44_machine.md R200). -/
def isKey (c : Code) : Bool := isLetter (upcase c)

/-- The positions from which the stepper never leaves its cycle: the complement of 44_machine.md R201's two sets of
states off it. -/
def OnCycle (s : State) : Prop :=
  ¬ (s.pos[1] = s.active.notchIdx[1] ∧ s.pos[2] ≠ s.active.notchIdx[2] + 1)
    ∧ ¬ (s.pos[1] = s.active.notchIdx[1] + 1 ∧ s.pos[2] = s.active.notchIdx[2] + 1)

/-- Two pairs share no letter, after case normalisation (41_plugboard.md R112). -/
def DisjointPairs (p q : Code × Code) : Prop :=
  upcase p.1 ≠ upcase q.1 ∧ upcase p.1 ≠ upcase q.2 ∧ upcase p.2 ≠ upcase q.1 ∧ upcase p.2 ≠ upcase q.2

/-- The configurations that the source's constructor accepts (44_machine.md R192, R194; 41_plugboard.md R112). -/
def ValidConfiguration (c : Configuration) : Prop :=
  c.rotors.length = 3
    ∧ (∀ r ∈ c.rotors, r.name.toNat ≤ 4 ∧ isLetter (upcase r.pos) = true)
    ∧ c.refl.toNat ≤ 2
    ∧ (∀ p ∈ c.pairs, isLetter (upcase p.1) = true ∧ isLetter (upcase p.2) = true ∧ upcase p.1 ≠ upcase p.2)
    ∧ c.pairs.Pairwise DisjointPairs

end Sys2Proof.Machine
end

