-- ==== Sys2Proof/Certificates/Slice0/Obligations.lean ====
section
/-! DEFINITION. Certificates/Slice0/Obligations.lean: what the model claims, stated for the provers; each statement's
docstring names the rule of spec/ it comes from. -/

open Sys2Proof Sys2Proof.Machine

/-! ### Encoding -/

/-- 30_encoding.md R70, R71, R73, R74: no bit of a command is lost between its word and its fields. -/
def Obligations.DecodeInvertsEncode : Prop :=
  ∀ i : Instr, WellFormed i = true → decode (encode i) = .ok i

/-- 30_encoding.md R71, R74, R75, R77: a word that decodes is the one word of a well-formed command. -/
def Obligations.LegalWordsAreEncodings : Prop :=
  ∀ (w : Word) (i : Instr), decode w = .ok i → WellFormed i = true ∧ encode i = w

/-- 30_encoding.md R76 with R75 and R77, and 44_machine.md R213: the ILLEGAL words are exactly those of the three
bullets, and each changes no state and responds ILLEGAL_COMMAND, whatever the state. -/
def Obligations.IllegalWordsChangeNothing : Prop :=
  (∀ w : Word, (∃ e, decode w = .error e) ↔ IllegalWord w)
    ∧ ∀ (w : Word) (s : State) (rest : List HostInput), IllegalWord w → s.pending = .command w :: rest →
        step s = .next { s with pending := rest, responses := s.responses ++ [0x09000000#32] }

/-- Sanity: words of 95_test_vectors.md, one of each format of 30_encoding.md R71. -/
def Obligations.SpecWordsDecode : Prop :=
  decode 0x10000000#32 = .ok .cfgClear
    ∧ decode 0x24FB7100#32 = .ok (.cfgRotor 4#3 0xFB#8 0x71#8)
    ∧ decode 0x3019005A#32 = .ok (.cfgWire 25#5 0x5A#8)
    ∧ decode 0x401A4251#32 = .ok (.cfgRotorRaw 0x1A#8 0x42#8 0x51#8)
    ∧ decode 0x52000000#32 = .ok (.cfgReflector 2#3)
    ∧ decode 0x70007177#32 = .ok (.cfgPlug 0x71#8 0x77#8)
    ∧ decode 0x90000048#32 = .ok (.encodeChar 0x48#8)
    ∧ decode 0xA1000065#32 = .ok (.setPosition 1#2 0x65#8)
    ∧ decode 0xB0000000#32 = .ok .readState

/-- 20_memory.md R55, R58; 30_encoding.md R78: when the oldest presented word decodes, the step takes it from the
host's port and is the meaning of its command. That the host's words wait in a list is the model's choice (log entry
1). -/
def Obligations.StepRunsTheDecodedCommand : Prop :=
  ∀ (s : State) (w : Word) (rest : List HostInput) (i : Instr),
    s.pending = .command w :: rest → decode w = .ok i → step s = exec i { s with pending := rest }

/-- 20_memory.md R53: over either byte order a command crosses a byte-wide transport whole, and the bytes after it are
left for the next one. -/
def Obligations.ByteTransportCarriesCommands : Prop :=
  ∀ (o : ByteOrder) (i : Instr) (rest : List Code),
    WellFormed i = true → decodeBytes o (bytesOfWord o (encode i) ++ rest) = .ok (i, rest)

/-! ### Arithmetic and alphabet -/

/-- 00_scope.md R8: the floor modulo is the unique index that differs from `a` by a multiple of 26. The spec marks it
as its own inference. -/
def Obligations.FloorModuloIsUnique : Prop :=
  ∀ (a : Int) (r : Idx), r = mod26 a ↔ (26 : Int) ∣ a - (r.val : Int)

/-- 40_alphabet.md R101, R102, R103, R104: which codes `upcase` changes, which are letters, the index of a letter, and
the letter of any integer; and the laws of R105, which the spec marks as its own inference. -/
def Obligations.AlphabetFunctions : Prop :=
  (∀ c : Code,
    (0x61 ≤ c.toNat ∧ c.toNat ≤ 0x7A → (upcase c).toNat = c.toNat - 0x20)
      ∧ (¬ (0x61 ≤ c.toNat ∧ c.toNat ≤ 0x7A) → upcase c = c)
      ∧ (isLetter c = true ↔ 0x41 ≤ c.toNat ∧ c.toNat ≤ 0x5A))
    ∧ (∀ (u : Code) (i : Idx), l2i u = some i ↔ 0x41 ≤ u.toNat ∧ u.toNat = 0x41 + i.val)
    ∧ (∀ a : Int, ((i2l a).toNat : Int) = 0x41 + a % 26)
    ∧ (∀ u : Code, isLetter u = true → ∃ i, l2i u = some i ∧ i2l i.val = u)
    ∧ (∀ i : Idx, l2i (i2l i.val) = some i)
    ∧ ∀ c : Code, upcase (upcase c) = upcase c

/-! ### Staging commands -/

/-- 44_machine.md R191: the staging area is emptied, and the active configuration, `cfg_valid` and `pos` stay. -/
def Obligations.CfgClearEmptiesStaging : Prop :=
  decode 0x10000000#32 = .ok .cfgClear ∧ ∀ s : State, ∃ t, exec .cfgClear s = .next t
    ∧ Answered s t 0x00000000#32
    ∧ MachineUnmoved s t
    ∧ t.staging.count = 0
    ∧ (∀ k : Slot, t.staging.rot[k].kind = .named ∧ t.staging.rot[k].name = 0#3 ∧ t.staging.rot[k].notch = 0#8
        ∧ t.staging.rot[k].ring = 0#8 ∧ t.staging.rot[k].pos = 0#8 ∧ ∀ i : Idx, t.staging.rot[k].wire[i] = 0#8)
    ∧ t.staging.reflKind = .none
    ∧ t.staging.reflName = 0#3
    ∧ (∀ i : Idx, t.staging.reflWire[i] = 0#8)
    ∧ (∀ i : Idx, t.staging.plug[i] = i)
    ∧ t.staging.plugErr = .none
    ∧ ∀ i : Idx, t.staging.wbuf[i] = 0#8

/-- 42_rotor.md R132: the record goes into the slot of the count, which grows by one; from three on, nothing is stored
and the count is 4. Every other slot and field stays. -/
def Obligations.CfgRotorStagesNextSlot : Prop :=
  ∀ (name : BitVec 3) (ring pos : Code) (s : State), ∃ t, exec (.cfgRotor name ring pos) s = .next t
    ∧ decode (0x2#4 ++ 0#1 ++ name ++ ring ++ pos ++ 0#8) = .ok (.cfgRotor name ring pos)
    ∧ Answered s t 0x00000000#32
    ∧ MachineUnmoved s t
    ∧ (∀ k : Slot, s.staging.count.val = k.val →
        t.staging.rot[k].kind = .named ∧ t.staging.rot[k].name = name ∧ t.staging.rot[k].notch = 0#8
          ∧ t.staging.rot[k].ring = ring ∧ t.staging.rot[k].pos = pos ∧ (∀ i : Idx, t.staging.rot[k].wire[i] = 0#8)
          ∧ t.staging.count.val = k.val + 1)
    ∧ (∀ k : Slot, s.staging.count.val ≠ k.val → t.staging.rot[k] = s.staging.rot[k])
    ∧ (3 ≤ s.staging.count.val → t.staging.count = 4)
    ∧ t.staging.reflKind = s.staging.reflKind ∧ t.staging.reflName = s.staging.reflName
    ∧ t.staging.reflWire = s.staging.reflWire ∧ t.staging.plug = s.staging.plug
    ∧ t.staging.plugErr = s.staging.plugErr ∧ t.staging.wbuf = s.staging.wbuf

/-- 42_rotor.md R137: as CFG_ROTOR, with a copy of all 26 entries of `wbuf`, which is not changed by the copy. -/
def Obligations.CfgRotorRawStagesBufferCopy : Prop :=
  ∀ (ring pos notch : Code) (s : State), ∃ t, exec (.cfgRotorRaw ring pos notch) s = .next t
    ∧ decode (0x4#4 ++ 0#4 ++ ring ++ pos ++ notch) = .ok (.cfgRotorRaw ring pos notch)
    ∧ Answered s t 0x00000000#32
    ∧ MachineUnmoved s t
    ∧ (∀ k : Slot, s.staging.count.val = k.val →
        t.staging.rot[k].kind = .raw ∧ t.staging.rot[k].name = 0#3 ∧ t.staging.rot[k].notch = notch
          ∧ t.staging.rot[k].ring = ring ∧ t.staging.rot[k].pos = pos ∧ t.staging.rot[k].wire = s.staging.wbuf
          ∧ t.staging.count.val = k.val + 1)
    ∧ (∀ k : Slot, s.staging.count.val ≠ k.val → t.staging.rot[k] = s.staging.rot[k])
    ∧ (3 ≤ s.staging.count.val → t.staging.count = 4)
    ∧ t.staging.reflKind = s.staging.reflKind ∧ t.staging.reflName = s.staging.reflName
    ∧ t.staging.reflWire = s.staging.reflWire ∧ t.staging.plug = s.staging.plug
    ∧ t.staging.plugErr = s.staging.plugErr ∧ t.staging.wbuf = s.staging.wbuf

/-- 42_rotor.md R133: one entry of the buffer is written, as given, and nothing else; an index of 26..31 changes
nothing and responds ILLEGAL_COMMAND (30_encoding.md R77). -/
def Obligations.CfgWireWritesOneEntry : Prop :=
  ∀ (index : BitVec 5) (sym : Code) (s : State),
    (index.toNat ≤ 25 → ∃ t, exec (.cfgWire index sym) s = .next t
      ∧ decode (0x3#4 ++ 0#7 ++ index ++ 0#8 ++ sym) = .ok (.cfgWire index sym)
      ∧ Answered s t 0x00000000#32
      ∧ MachineUnmoved s t
      ∧ (∀ i : Idx, t.staging.wbuf[i] = if i.val = index.toNat then sym else s.staging.wbuf[i])
      ∧ t.staging = { s.staging with wbuf := t.staging.wbuf })
    ∧ (26 ≤ index.toNat → ∀ rest, s.pending = .command (0x3#4 ++ 0#7 ++ index ++ 0#8 ++ sym) :: rest →
        step s = .next { s with pending := rest, responses := s.responses ++ [0x09000000#32] })

/-- 43_reflector.md R173: the kind and the name are staged, over any earlier reflector, and nothing else changes. -/
def Obligations.CfgReflectorStagesName : Prop :=
  ∀ (name : BitVec 3) (s : State), ∃ t, exec (.cfgReflector name) s = .next t
    ∧ decode (0x5#4 ++ 0#1 ++ name ++ 0#24) = .ok (.cfgReflector name)
    ∧ Answered s t 0x00000000#32
    ∧ MachineUnmoved s t
    ∧ t.staging.reflKind = .named
    ∧ t.staging.reflName = name
    ∧ t.staging = { s.staging with reflKind := t.staging.reflKind, reflName := t.staging.reflName }

/-- 43_reflector.md R174: the kind and a copy of the buffer are staged, and nothing else changes. -/
def Obligations.CfgReflectorRawStagesBufferCopy : Prop :=
  decode 0x60000000#32 = .ok .cfgReflectorRaw ∧ ∀ s : State, ∃ t, exec .cfgReflectorRaw s = .next t
    ∧ Answered s t 0x00000000#32
    ∧ MachineUnmoved s t
    ∧ t.staging.reflKind = .raw
    ∧ (∀ i : Idx, t.staging.reflWire[i] = s.staging.wbuf[i])
    ∧ t.staging = { s.staging with reflKind := t.staging.reflKind, reflWire := t.staging.reflWire }

/-- 41_plugboard.md R113 with R111 and R112: the four outcomes of CFG_PLUG, which always responds OK. -/
def Obligations.CfgPlugOutcomes : Prop :=
  ∀ (a b : Code) (s : State), ∃ t, exec (.cfgPlug a b) s = .next t
    ∧ decode (0x7#4 ++ 0#12 ++ a ++ b) = .ok (.cfgPlug a b)
    ∧ Answered s t 0x00000000#32
    ∧ MachineUnmoved s t
    ∧ (s.staging.plugErr ≠ .none → t.staging = s.staging)
    ∧ (s.staging.plugErr = .none →
        isLetter (upcase a) = false ∨ isLetter (upcase b) = false ∨ upcase a = upcase b →
        t.staging = { s.staging with plugErr := .invalidPair })
    ∧ (∀ x y : Idx, s.staging.plugErr = .none → i2l x.val = upcase a → i2l y.val = upcase b → x ≠ y →
        (s.staging.plug[x] ≠ x ∨ s.staging.plug[y] ≠ y → t.staging = { s.staging with plugErr := .conflictingPair })
        ∧ (s.staging.plug[x] = x → s.staging.plug[y] = y →
            t.staging.plug[x] = y ∧ t.staging.plug[y] = x
              ∧ (∀ z : Idx, z ≠ x → z ≠ y → t.staging.plug[z] = s.staging.plug[z])
              ∧ t.staging = { s.staging with plug := t.staging.plug }))

/-- 10_state.md R32: `stg_count` "counts the rotors staged since the last CFG_CLEAR, saturating at 4". -/
def Obligations.StagedRotorCountSaturates : Prop :=
  ∀ (is : List Instr) (s : State), .cfgClear ∉ is →
    ∃ t, execAll (.cfgClear :: is) s = .next t ∧ t.staging.count.val = min (is.countP stagesRotor) 4

/-- 10_state.md R24, 60_exceptions.md R257: once a pair has failed, no command but CFG_CLEAR changes `stg_plug_err`,
and no command but CFG_PLUG sets it. -/
def Obligations.PlugErrorIsSticky : Prop :=
  ∀ (i : Instr) (s t : State), exec i s = .next t → i ≠ .cfgClear →
    (s.staging.plugErr ≠ .none → t.staging.plugErr = s.staging.plugErr ∧ t.staging.plug = s.staging.plug)
      ∧ (t.staging.plugErr ≠ s.staging.plugErr → ∃ a b, i = .cfgPlug a b)

/-- 41_plugboard.md R114: the map does not depend on the order of accepted pairs; the code of a failing set can. The
spec marks it as its own inference. -/
def Obligations.AcceptedPairOrderIsFree : Prop :=
  (∀ (ps qs : List (Code × Code)) (s t : State), ps.Perm qs →
    execAll (ps.map fun p => .cfgPlug p.1 p.2) s = .next t → t.staging.plugErr = .none →
    ∃ u, execAll (qs.map fun p => .cfgPlug p.1 p.2) s = .next u ∧ u.staging = t.staging)
    ∧ ∀ s : State,
        (∃ t, execAll [.cfgClear, .cfgPlug 0x41#8 0x42#8, .cfgPlug 0x41#8 0x43#8, .cfgPlug 0x58#8 0x31#8] s = .next t
          ∧ t.staging.plugErr = .conflictingPair)
        ∧ ∃ t, execAll [.cfgClear, .cfgPlug 0x58#8 0x31#8, .cfgPlug 0x41#8 0x42#8, .cfgPlug 0x41#8 0x43#8] s = .next t
          ∧ t.staging.plugErr = .invalidPair

/-- 41_plugboard.md R116: at most 13 pairs are accepted, and a 14th pair of two letters conflicts. The spec marks it
as its own inference. -/
def Obligations.AtMostThirteenPairs : Prop :=
  ∀ (ps : List (Code × Code)) (s t : State),
    execAll (.cfgClear :: ps.map fun p => .cfgPlug p.1 p.2) s = .next t → t.staging.plugErr = .none →
    ps.length ≤ 13
      ∧ (ps.length = 13 → ∀ a b : Code, isLetter (upcase a) = true → isLetter (upcase b) = true →
          upcase a ≠ upcase b →
          ∃ u, exec (.cfgPlug a b) t = .next u ∧ u.staging.plugErr = .conflictingPair)

/-- 30_encoding.md R83: LOAD_WIRING writes the first 26 codes in index order, leaves the entries a short string does
not reach, and spoils entry 0 when the string is too long. -/
def Obligations.LoadWiringFillsBuffer : Prop :=
  ∀ (codes : List Code) (s : State), ∃ t, execAll (loadWiring codes) s = .next t
    ∧ MachineUnmoved s t
    ∧ t.staging = { s.staging with wbuf := t.staging.wbuf }
    ∧ ∀ i : Idx, t.staging.wbuf[i]
        = if 26 < codes.length ∧ i = 0 then 0x00#8 else (codes[i.val]?).getD s.staging.wbuf[i]

/-- 30_encoding.md R81: a pair string is trimmed at both ends; two codes left are the pair, and any other string is
`CFG_PLUG 0x00, 0x00`, which makes the plugboard report INVALID_PAIR. -/
def Obligations.PairStringsAreTrimmed : Prop :=
  (∀ (lead trail : List Code) (x y : Code), (∀ c ∈ lead, isWhitespace c = true) → (∀ c ∈ trail, isWhitespace c = true) →
      isWhitespace x = false → isWhitespace y = false → plugString (lead ++ x :: y :: trail) = .cfgPlug x y)
    ∧ ∀ (codes : List Code) (s : State),
        (¬ ∃ lead trail x y, codes = lead ++ x :: y :: trail ∧ (∀ c ∈ lead, isWhitespace c = true)
          ∧ (∀ c ∈ trail, isWhitespace c = true) ∧ isWhitespace x = false ∧ isWhitespace y = false) →
        plugString codes = .cfgPlug 0x00#8 0x00#8
          ∧ (s.staging.plugErr = .none → ∃ t, exec (plugString codes) s = .next t ∧ t.staging.plugErr = .invalidPair)

/-! ### CFG_COMMIT -/

/-- 44_machine.md R194 with 42_rotor.md R144 and 43_reflector.md R175: CFG_COMMIT reports the first failing check, in
the order count, rotors left to right (name or wiring, then position), reflector, plugboard; and OK when none fails. -/
def Obligations.CommitReportsFirstFailure : Prop :=
  ∀ s : State, ∃ t r, exec .cfgCommit s = .next t ∧ Answered s t r
    ∧ (s.staging.count ≠ 3 → r = 0x04000000#32)
    ∧ (s.staging.count = 3 →
        (∀ k : Slot, (∀ j : Slot, j < k → RotorOk s.staging.rot[j]) →
          (s.staging.rot[k].kind = .named → 4 < s.staging.rot[k].name.toNat → r = 0x01000000#32)
          ∧ (s.staging.rot[k].kind = .raw → ¬ IsLetterPermutation s.staging.rot[k].wire → r = 0x03000000#32)
          ∧ (RotorSourceOk s.staging.rot[k] → isLetter (upcase s.staging.rot[k].pos) = false → r = 0x07000000#32))
        ∧ ((∀ k : Slot, RotorOk s.staging.rot[k]) →
            (s.staging.reflKind = .none → r = 0x02000000#32)
            ∧ (s.staging.reflKind = .named → 2 < s.staging.reflName.toNat → r = 0x02000000#32)
            ∧ (s.staging.reflKind = .raw → (∃ i : Idx, isLetter s.staging.reflWire[i] = false) → r = 0x03000000#32)
            ∧ (ReflectorOk s.staging →
                (s.staging.plugErr = .invalidPair → r = 0x05000000#32)
                ∧ (s.staging.plugErr = .conflictingPair → r = 0x06000000#32)
                ∧ (s.staging.plugErr = .none → r = 0x00000000#32))))

/-- 44_machine.md R195 with 60_exceptions.md R256: a failed CFG_COMMIT clears `cfg_valid` and changes nothing else; the
old machine no longer encodes, and its positions stay readable. -/
def Obligations.FailedCommitDisablesMachine : Prop :=
  ∀ s : State, ¬ Committable s.staging → ∃ t st, exec .cfgCommit s = .next t
    ∧ st ≠ Status.ok
    ∧ t = { s with cfgValid := false, responses := s.responses ++ [responseWord st 0#16] }
    ∧ (∀ c : Code, exec (.encodeChar c) t = .next { t with responses := t.responses ++ [0x08000000#32] })
    ∧ ∃ u r, exec .readState t = .next u ∧ Answered t u r
        ∧ r.toNat = 1024 * s.pos[0].val + 32 * s.pos[1].val + s.pos[2].val

/-- 44_machine.md R196 with 42_rotor.md R134, R135, R136 and 43_reflector.md R176: what a successful CFG_COMMIT builds,
under the default ROMs. -/
def Obligations.CommitBuildsMachine : Prop :=
  decode 0x80000000#32 = .ok .cfgCommit ∧ ∀ s : State, Committable s.staging → ∃ t, exec .cfgCommit s = .next t
    ∧ Answered s t 0x00000000#32
    ∧ t.staging = s.staging
    ∧ t.cfgValid = true
    ∧ (∀ k : Slot,
        (26 : Int) ∣ s.staging.rot[k].ring.toInt - 1 - (t.active.ring[k].val : Int)
        ∧ i2l t.pos[k].val = upcase s.staging.rot[k].pos
        ∧ (∀ i : Idx, t.active.bwd[k][t.active.fwd[k][i]] = i)
        ∧ (s.staging.rot[k].kind = .raw →
            (∀ i : Idx, i2l t.active.fwd[k][i].val = s.staging.rot[k].wire[i])
            ∧ (isLetter s.staging.rot[k].notch = true →
                t.active.notchEn[k] = true ∧ i2l t.active.notchIdx[k].val = s.staging.rot[k].notch)
            ∧ (isLetter s.staging.rot[k].notch = false →
                t.active.notchEn[k] = false ∧ t.active.notchIdx[k] = 0))
        ∧ (∀ e, s.staging.rot[k].kind = .named →
            standardRoms.rotors[s.staging.rot[k].name.toNat]? = some e →
            (∀ i : Idx, i2l t.active.fwd[k][i].val = e.wiring[i])
            ∧ t.active.notchEn[k] = true ∧ i2l t.active.notchIdx[k].val = e.notch))
    ∧ (s.staging.reflKind = .raw → ∀ i : Idx, i2l t.active.refl[i].val = s.staging.reflWire[i])
    ∧ (∀ w, s.staging.reflKind = .named → standardRoms.reflectors[s.staging.reflName.toNat]? = some w →
        ∀ i : Idx, i2l t.active.refl[i].val = w[i])
    ∧ t.active.plug = s.staging.plug

/-- 43_reflector.md R172, 42_rotor.md R131: the default ROM wirings are permutations with letter notches, and the
default reflectors are involutions with no fixed point. The spec marks it as its own inference. The tables are the
spec's own default, from general knowledge (log entry 7). -/
def Obligations.DefaultRomsAreSound : Prop :=
  (∀ n : Fin 5, IsLetterPermutation standardRoms.rotors[n].wiring ∧ isLetter standardRoms.rotors[n].notch = true)
    ∧ ∀ n : Fin 3, (∀ i : Idx, isLetter standardRoms.reflectors[n][i] = true)
        ∧ Involutive (wiringIndices standardRoms.reflectors[n])
        ∧ NoFixedPoint (wiringIndices standardRoms.reflectors[n])

/-- 44_machine.md R193, R209, 92_eei_decisions.md D13: after any keypresses, position overwrites and reads, a second
CFG_COMMIT (RESTART) gives back the machine the first one built. -/
def Obligations.RestartRebuildsTheMachine : Prop :=
  ∀ (s t : State) (is : List Instr), Committable s.staging → exec .cfgCommit s = .next t →
    (∀ i ∈ is, (∃ c, i = .encodeChar c) ∨ (∃ k c, i = .setPosition k c) ∨ i = .readState) →
    ∃ u v, execAll is t = .next u ∧ exec .cfgCommit u = .next v ∧ SameBlock t v

/-- 20_memory.md R56: repeating one of these commands changes nothing more and answers alike; repeating an accepted
pair makes it conflict. The spec marks it as its own inference. -/
def Obligations.IdempotentCommands : Prop :=
  (∀ (i : Instr) (s t : State) (r : Word), exec i s = .next t → Answered s t r →
    (i = .cfgClear ∨ (∃ j c, i = .cfgWire j c) ∨ (∃ n, i = .cfgReflector n) ∨ i = .cfgReflectorRaw
      ∨ i = .readState ∨ (∃ k c, i = .setPosition k c) ∨ i = .cfgCommit) →
    ∃ u, exec i t = .next u ∧ Answered t u r ∧ SameBlock t u)
    ∧ ∀ (a b : Code) (s t : State), exec (.cfgPlug a b) s = .next t → t.staging.plugErr = .none →
        ∃ u, exec (.cfgPlug a b) t = .next u ∧ u.staging.plugErr = .conflictingPair

/-- 10_state.md R20, 93_implementation_defined.md U8, 42_rotor.md R131: the engine's step has the ROMs as a parameter.
Under any ROMs whose wirings are permutations with letter notches, CFG_COMMIT and every step keep the invariant of
10_state.md R30, which the spec marks as its own inference; and CFG_COMMIT builds a named rotor from the ROM it is
given (R134). -/
def Obligations.AnySoundRomsKeepTheInvariant : Prop :=
  (∀ (rom : Roms) (s : State), RomsSound rom → s.Inv →
    (∃ t, execOver rom .cfgCommit s = .next t ∧ t.Inv) ∧ ∃ t, stepOver rom s = .next t ∧ t.Inv)
    ∧ ∀ (rom : Roms) (s : State) (k : Slot) (e : RotorSpec), Committable s.staging → s.staging.rot[k].kind = .named →
        rom.rotors[s.staging.rot[k].name.toNat]? = some e → IsLetterPermutation e.wiring →
        ∃ t, execOver rom .cfgCommit s = .next t ∧ t.cfgValid = true
          ∧ ∀ i : Idx, i2l t.active.fwd[k][i].val = e.wiring[i]

/-- 30_encoding.md R80, 44_machine.md R192, 95_test_vectors.md L1-7: from any state, CONFIGURE ends with a usable machine
exactly when the source's constructor accepts its arguments. -/
def Obligations.ConfigureAcceptsExactlyValid : Prop :=
  ∀ (c : Configuration) (s : State), ∃ t, execAll (configure c) s = .next t
    ∧ (t.cfgValid = true ↔ ValidConfiguration c)
    ∧ t.responses.length = s.responses.length + (configure c).length

/-! ### The stepper -/

/-- 44_machine.md R198 with 42_rotor.md R138, R139: how one keypress moves the three rotors. Idx addition is modulo 26. -/
def Obligations.KeypressStepsRotors : Prop :=
  ∀ (c : Code) (s : State), s.cfgValid = true → isKey c = true → ∃ t, exec (.encodeChar c) s = .next t
    ∧ t.pos[2] = s.pos[2] + 1
    ∧ (s.active.notchEn[1] = true ∧ s.pos[1] = s.active.notchIdx[1] →
        t.pos[0] = s.pos[0] + 1 ∧ t.pos[1] = s.pos[1] + 1)
    ∧ (¬ (s.active.notchEn[1] = true ∧ s.pos[1] = s.active.notchIdx[1]) →
        t.pos[0] = s.pos[0]
        ∧ (s.active.notchEn[2] = true ∧ s.pos[2] = s.active.notchIdx[2] → t.pos[1] = s.pos[1] + 1)
        ∧ (¬ (s.active.notchEn[2] = true ∧ s.pos[2] = s.active.notchIdx[2]) → t.pos[1] = s.pos[1]))

/-- 44_machine.md R199: the middle rotor advances on two consecutive keypresses; and with notches E and V the
positions run ADU, ADV, AEW, BFX, BFY. The spec marks it as its own inference. -/
def Obligations.DoubleStep : Prop :=
  (∀ (c d : Code) (s : State), s.cfgValid = true → isKey c = true → isKey d = true →
    s.active.notchEn[1] = true → s.active.notchEn[2] = true →
    s.active.notchIdx[1] = s.pos[1] + 1 → s.pos[2] = s.active.notchIdx[2] →
    ∃ t u, exec (.encodeChar c) s = .next t ∧ exec (.encodeChar d) t = .next u
      ∧ t.pos[0] = s.pos[0] ∧ t.pos[1] = s.pos[1] + 1 ∧ t.pos[2] = s.pos[2] + 1
      ∧ u.pos[0] = s.pos[0] + 1 ∧ u.pos[1] = s.pos[1] + 2 ∧ u.pos[2] = s.pos[2] + 2)
    ∧ ∀ (c : Code) (s : State), s.cfgValid = true → isKey c = true →
        s.active.notchEn[1] = true → s.active.notchEn[2] = true →
        s.active.notchIdx[1] = 4 → s.active.notchIdx[2] = 21 → s.pos = #v[0, 3, 20] →
        ∃ t1 t2 t3 t4, exec (.encodeChar c) s = .next t1 ∧ exec (.encodeChar c) t1 = .next t2
          ∧ exec (.encodeChar c) t2 = .next t3 ∧ exec (.encodeChar c) t3 = .next t4
          ∧ t1.pos = #v[0, 3, 21] ∧ t2.pos = #v[0, 4, 22] ∧ t3.pos = #v[1, 5, 23] ∧ t4.pos = #v[1, 5, 24]

/-- 44_machine.md R201: from any positions, two keypresses reach the stepper's cycle, and no keypress leaves it. The
spec marks it as its own inference. -/
def Obligations.TwoKeypressesReachTheCycle : Prop :=
  ∀ s : State, s.active.notchEn[1] = true → s.active.notchEn[2] = true →
    OnCycle (stepRotors (stepRotors s)) ∧ (OnCycle s → OnCycle (stepRotors s))

/-- 44_machine.md R201: on the cycle the positions repeat exactly every 16900 keypresses, and one cycle holds every
position that is on it. The spec marks it as its own inference. -/
def Obligations.StepperCycleHasPeriod16900 : Prop :=
  ∀ s : State, s.active.notchEn[1] = true → s.active.notchEn[2] = true → OnCycle s →
    (∀ n : Nat, (stepRotors^[n] s).pos = s.pos ↔ 16900 ∣ n)
      ∧ ∀ q : State, q.active = s.active → OnCycle q → ∃ n : Nat, n < 16900 ∧ (stepRotors^[n] s).pos = q.pos

/-- 44_machine.md R202: with the right rotor's notch disabled only the middle rotor's own notch moves it, and with the
middle rotor's notch disabled the left rotor never steps; the reflector never rotates. The spec marks it as its own
inference. -/
def Obligations.DisabledNotchesCarryNothing : Prop :=
  (∀ (c : Code) (s : State), s.cfgValid = true → s.active.notchEn[2] = false →
      ¬ (s.active.notchEn[1] = true ∧ s.pos[1] = s.active.notchIdx[1]) →
      ∃ t, exec (.encodeChar c) s = .next t ∧ t.pos[1] = s.pos[1])
    ∧ ∀ (text : List Code) (s : State),
        ∃ t, execAll (encodeStr text) s = .next t
          ∧ t.active = s.active
          ∧ (s.active.notchEn[1] = false → t.pos[0] = s.pos[0])

/-- 44_machine.md R200: only a keypress, SET_POSITION and CFG_COMMIT can change a position. -/
def Obligations.OnlyKeypressesStep : Prop :=
  ∀ (i : Instr) (s t : State), exec i s = .next t → t.pos ≠ s.pos →
    i = .cfgCommit ∨ (∃ k c, i = .setPosition k c) ∨ ∃ c, i = .encodeChar c ∧ isKey c = true

/-! ### The encode pipeline -/

/-- 42_rotor.md R142: the passes of every rotor are inverse to each other, in every safe state with a machine. The
spec marks it as its own inference. -/
def Obligations.PassesAreInverse : Prop :=
  ∀ (s : State) (k : Slot) (x : Idx), s.Inv → s.cfgValid = true →
    rotorBackwardPass s k (rotorForwardPass s k x) = x ∧ rotorForwardPass s k (rotorBackwardPass s k x) = x

/-- 44_machine.md R205 with R203 and R204: the three outcomes of ENCODE_CHAR. On a keypress the output letter is the
plugboard, the passes right to left, the reflector, the passes left to right, and the plugboard again, all at the
positions after the step; each pass is the table conjugated by the shift `pos - ring`. -/
def Obligations.EncodeCharRunsThePipeline : Prop :=
  ∀ (c : Code) (s : State),
    decode (0x9#4 ++ 0#20 ++ c) = .ok (.encodeChar c)
    ∧ (s.cfgValid = false → exec (.encodeChar c) s = .next { s with responses := s.responses ++ [0x08000000#32] })
    ∧ (s.cfgValid = true → isKey c = false →
        exec (.encodeChar c) s = .next { s with responses := s.responses ++ [BitVec.ofNat 32 c.toNat] })
    ∧ (∀ x : Idx, s.cfgValid = true → i2l x.val = upcase c → ∃ t, exec (.encodeChar c) s = .next t
        ∧ t.pos = (stepRotors s).pos
        ∧ t.cfgValid = s.cfgValid ∧ t.active = s.active ∧ t.staging = s.staging
        ∧ (let pass := fun (table : Table) (k : Slot) (y : Idx) =>
              table[y + (t.pos[k] - s.active.ring[k])] - (t.pos[k] - s.active.ring[k])
           let inward := pass s.active.fwd[0] 0 (pass s.active.fwd[1] 1 (pass s.active.fwd[2] 2 s.active.plug[x]))
           let outward := pass s.active.bwd[2] 2 (pass s.active.bwd[1] 1 (pass s.active.bwd[0] 0 s.active.refl[inward]))
           Answered s t (BitVec.ofNat 32 (0x41 + s.active.plug[outward].val))))

/-- 44_machine.md R206: inserting non-letters into a stream changes neither the block's final state nor the letters'
ciphertext. The spec marks it as its own inference. -/
def Obligations.NonLettersChangeNoCiphertext : Prop :=
  ∀ (text : List Code) (s : State), s.cfgValid = true → ∃ t u outs outs',
    execAll (encodeStr text) s = .next t ∧ execAll (encodeStr (text.filter isKey)) s = .next u
      ∧ t.responses = s.responses ++ outs ∧ u.responses = s.responses ++ outs'
      ∧ SameBlock t u
      ∧ (((text.zip outs).filter fun p => isKey p.1).map Prod.snd) = outs'

/-- 44_machine.md R207: the output of a keypress is an uppercase letter, and the case of the input does not matter. -/
def Obligations.OutputIsUppercase : Prop :=
  ∀ (c : Code) (s : State), s.cfgValid = true → isKey c = true →
    exec (.encodeChar c) s = exec (.encodeChar (upcase c)) s
      ∧ ∃ t r, exec (.encodeChar c) s = .next t ∧ Answered s t r ∧ 0x41 ≤ r.toNat ∧ r.toNat ≤ 0x5A

/-- 44_machine.md R208: a text gives one output per code, non-letters come out as they are, and the positions are the
stepper's after as many keypresses as the text has letters. The spec marks it as its own inference. -/
def Obligations.StringEncodingIsOneToOne : Prop :=
  ∀ (text : List Code) (s : State), s.cfgValid = true → ∃ t outs,
    execAll (encodeStr text) s = .next t
      ∧ t.responses = s.responses ++ outs
      ∧ outs.length = text.length
      ∧ (∀ (j : Nat) (c : Code) (r : Word), text[j]? = some c → outs[j]? = some r →
          responseStatus r = 0x00#8 ∧ (isKey c = false → responseCode r = c))
      ∧ t.pos = (stepRotors^[text.countP isKey] s).pos

/-- 44_machine.md R209, first point: with an involutive reflector the keypress permutation is an involution. The spec
marks it as its own inference. -/
def Obligations.KeypressPermutationIsInvolution : Prop :=
  ∀ (s : State) (x : Idx), s.Inv → s.cfgValid = true → Involutive s.active.refl → keypress s (keypress s x) = x

/-- 44_machine.md R211: with a reflector that has no fixed point, a keypress never encodes a letter to itself. The
spec marks it as its own inference. -/
def Obligations.NoLetterEncodesToItself : Prop :=
  ∀ (c : Code) (s : State), s.Inv → s.cfgValid = true → NoFixedPoint s.active.refl → isKey c = true →
    ∃ t r, exec (.encodeChar c) s = .next t ∧ Answered s t r ∧ responseCode r ≠ upcase c

/-- 44_machine.md R209: encode a text from a fresh commit, RESTART, and encode the output: the answer is `upcase` of
the text, code by code, and the positions end where they ended before. Run through the block's own steps. The spec
marks it as its own inference. -/
def Obligations.RestartDecrypts : Prop :=
  ∀ (text : List Code) (s : State), Involutive s.staging.plug → Committable s.staging →
    Involutive (builtRefl standardRoms s.staging) → s.pending = [] →
    ∃ t u outs backs r,
      Host.Core.run Sys2Proof.core (1 + text.length) (present (restart ++ encodeStr text) s) = .next t
        ∧ t.responses = s.responses ++ [r] ++ outs
        ∧ Host.Core.run Sys2Proof.core (1 + text.length) (present (restart ++ encodeStr (outs.map responseCode)) t)
            = .next u
        ∧ u.responses = t.responses ++ [r] ++ backs
        ∧ backs.map responseCode = text.map upcase
        ∧ u.pos = t.pos

/-! ### Setup and observation -/

/-- 44_machine.md R210: the four outcomes of SET_POSITION; the staged initial position is not changed. -/
def Obligations.SetPositionOverwritesOneRotor : Prop :=
  ∀ (slot : BitVec 2) (sym : Code) (s : State),
    (slot = 3#2 → ∀ rest, s.pending = .command (0xA#4 ++ 0#2 ++ slot ++ 0#16 ++ sym) :: rest →
        step s = .next { s with pending := rest, responses := s.responses ++ [0x09000000#32] })
    ∧ (slot ≠ 3#2 → decode (0xA#4 ++ 0#2 ++ slot ++ 0#16 ++ sym) = .ok (.setPosition slot sym))
    ∧ (slot ≠ 3#2 → s.cfgValid = false →
        exec (.setPosition slot sym) s = .next { s with responses := s.responses ++ [0x08000000#32] })
    ∧ (slot ≠ 3#2 → s.cfgValid = true → isKey sym = false →
        exec (.setPosition slot sym) s = .next { s with responses := s.responses ++ [0x07000000#32] })
    ∧ (slot ≠ 3#2 → s.cfgValid = true → isKey sym = true → ∃ t, exec (.setPosition slot sym) s = .next t
        ∧ Answered s t 0x00000000#32
        ∧ t.cfgValid = s.cfgValid ∧ t.active = s.active ∧ t.staging = s.staging
        ∧ ∀ k : Slot, (k.val = slot.toNat → i2l t.pos[k].val = upcase sym)
            ∧ (k.val ≠ slot.toNat → t.pos[k] = s.pos[k]))

/-- 44_machine.md R212: READ_STATE packs `cfg_valid` and the three positions, and changes no state. -/
def Obligations.ReadStateReportsPositions : Prop :=
  decode 0xB0000000#32 = .ok .readState ∧ ∀ s : State, ∃ r,
    exec .readState s = .next { s with responses := s.responses ++ [r] }
    ∧ r.toNat = (if s.cfgValid = true then 32768 else 0) + 1024 * s.pos[0].val + 32 * s.pos[1].val + s.pos[2].val

/-! ### Whole-machine rules -/

/-- 60_exceptions.md R250: no step stops the block. That the model has no fault (20_memory.md R52, the spec's own
inference) is log entry 13, and that there is a step with nothing presented is log entry 3: both are the model's
reading. -/
def Obligations.EveryStepAnswers : Prop :=
  ∀ s : State, ∃ t, step s = .next t

/-- 30_encoding.md R72: every command word, legal or not, gets exactly one response, whose bits 23..16 are zero, whose
status is a code of 60_exceptions.md R251, and whose data is zero unless an OK ENCODE_CHAR or READ_STATE carries it. -/
def Obligations.OneResponsePerCommand : Prop :=
  ∀ (s : State) (w : Word) (rest : List HostInput), s.pending = .command w :: rest →
    ∃ t r, step s = .next t ∧ t.responses = s.responses ++ [r] ∧ t.pending = rest
      ∧ field r 16 8 = 0#8
      ∧ (responseStatus r).toNat ≤ 9
      ∧ (responseStatus r ≠ 0#8 → responseData r = 0#16)
      ∧ (responseData r ≠ 0#16 → opcode w = 0x9#4 ∨ opcode w = 0xB#4)
      ∧ (opcode w = 0x9#4 → field r 8 8 = 0#8)

/-- 60_exceptions.md R256: a command word that reports a non-OK status changes no state, but that CFG_COMMIT's failure
clears `cfg_valid`; and CFG_PLUG responds OK whatever its pair, while it can set `stg_plug_err`. -/
def Obligations.ErrorsChangeNothing : Prop :=
  (∀ (s t : State) (w : Word) (rest : List HostInput) (r : Word), s.pending = .command w :: rest → step s = .next t →
      t.responses = s.responses ++ [r] → responseStatus r ≠ 0#8 →
      (w ≠ 0x80000000#32 → SameBlock s t)
      ∧ (w = 0x80000000#32 → t.cfgValid = false ∧ t.pos = s.pos ∧ t.active = s.active ∧ t.staging = s.staging))
    ∧ (∀ (a b : Code) (s : State), ∃ t, exec (.cfgPlug a b) s = .next t ∧ Answered s t 0x00000000#32)
    ∧ ∃ t, exec (.cfgPlug 0x41#8 0x41#8) State.reset = .next t
        ∧ t.staging.plugErr ≠ State.reset.staging.plugErr

/-- 10_state.md R31: which commands write which fields. -/
def Obligations.FieldWriters : Prop :=
  ∀ (i : Instr) (s t : State), exec i s = .next t →
    (t.cfgValid ≠ s.cfgValid → i = .cfgCommit)
    ∧ (t.active ≠ s.active → i = .cfgCommit ∧ Committable s.staging ∧ t.cfgValid = true)
    ∧ (t.staging ≠ s.staging → isStaging i = true)
    ∧ (t.staging.wbuf ≠ s.staging.wbuf → i = .cfgClear ∨ ∃ j c, i = .cfgWire j c)
    ∧ (t.staging.rot ≠ s.staging.rot → i = .cfgClear ∨ stagesRotor i = true)
    ∧ (t.staging.plug ≠ s.staging.plug → i = .cfgClear ∨ ∃ a b, i = .cfgPlug a b)

/-- 20_memory.md R60, 70_reset_and_hazards.md R285: staging commands between the characters of a text, and reads of the
state, change nothing of what the text encodes to. -/
def Obligations.StagingDoesNotReconfigure : Prop :=
  ∀ (is : List Instr) (s : State),
    (∀ i ∈ is, isStaging i = true ∨ i = .readState ∨ ∃ c, i = .encodeChar c) →
    ∃ t u outs outs', execAll is s = .next t
      ∧ execAll (is.filter fun i => !(isStaging i || i == .readState)) s = .next u
      ∧ t.responses = s.responses ++ outs ∧ u.responses = s.responses ++ outs'
      ∧ t.pos = u.pos ∧ t.active = u.active ∧ t.cfgValid = u.cfgValid
      ∧ ((is.zip outs).filter fun p => !(isStaging p.1 || p.1 == .readState)).map Prod.snd = outs'

/-- 44_machine.md R214: responses and next states of a command sequence depend on the block's state and the commands
alone, not on what the host has been answered, what else it has presented, or how many free values were drawn. The
spec marks it as its own inference. -/
def Obligations.ResponsesDependOnBlockOnly : Prop :=
  ∀ (is : List Instr) (s s' : State), SameBlock s s' → ∃ t t' outs,
    execAll is s = .next t ∧ execAll is s' = .next t' ∧ SameBlock t t'
      ∧ t.responses = s.responses ++ outs ∧ t'.responses = s'.responses ++ outs

/-- 10_state.md R39, 93_implementation_defined.md U3: while `cfg_valid = 0` the contents of the active tables are
unobservable: two blocks that differ in them alone answer every command sequence alike. -/
def Obligations.UnconfiguredTablesAreUnobservable : Prop :=
  ∀ (is : List Instr) (s : State) (a : Active), s.cfgValid = false → ∃ t t' outs,
    execAll is s = .next t ∧ execAll is { s with active := a } = .next t'
      ∧ t.responses = s.responses ++ outs ∧ t'.responses = s.responses ++ outs
      ∧ t'.pos = t.pos ∧ t'.cfgValid = t.cfgValid ∧ t'.staging = t.staging
      ∧ (t.cfgValid = true → t'.active = t.active)

/-- 20_memory.md R55, R58: the words a host presents take effect one at a time in the order presented, each answered
before the next is taken; the words behind them wait. The lists of words and responses are the model's choice (log
entries 1 and 2). -/
def Obligations.CommandsTakeEffectInOrder : Prop :=
  ∀ (is : List Instr) (s : State) (rest : List HostInput), (∀ i ∈ is, WellFormed i = true) →
    s.pending = (is.map fun i => HostInput.command (encode i)) ++ rest →
    ∃ t, Host.Core.run Sys2Proof.core is.length s = .next t
      ∧ execAll is { s with pending := rest } = .next t
      ∧ t.pending = rest
      ∧ t.responses.length = s.responses.length + is.length

/-- 60_exceptions.md R265: with nothing presented the block idles with its state held. That a step exists then is the
model's reading (log entry 3). -/
def Obligations.IdleHoldsState : Prop :=
  ∀ s : State, s.pending = [] → step s = .next s

/-- 10_state.md R38, 60_exceptions.md R263: under every interleaving, each engine of a platform is where its own steps
alone have brought it. The schedule is the model's choice (log entry 14). -/
def Obligations.EnginesNeverAffectEachOther : Prop :=
  ∀ (schedule : List Nat) (p : Platform) (j : Nat) (s : State), p[j]? = some s →
    ∃ t, Host.Core.run Sys2Proof.core (schedule.count j) s = .next t ∧ (runSchedule schedule p)[j]? = some t

/-! ### Reset and the invariant -/

/-- 10_state.md R39 with R33: the fields whose reset value the spec gives, right after reset. -/
def Obligations.ResetValues : Prop :=
  State.reset.cfgValid = false
    ∧ (∀ k : Slot, State.reset.pos[k] = 0)
    ∧ State.reset.staging.count = 0
    ∧ (∀ k : Slot, State.reset.staging.rot[k].kind = .named ∧ State.reset.staging.rot[k].name = 0#3
        ∧ State.reset.staging.rot[k].notch = 0#8 ∧ State.reset.staging.rot[k].ring = 0#8
        ∧ State.reset.staging.rot[k].pos = 0#8 ∧ ∀ i : Idx, State.reset.staging.rot[k].wire[i] = 0#8)
    ∧ State.reset.staging.reflKind = .none
    ∧ State.reset.staging.reflName = 0#3
    ∧ (∀ i : Idx, State.reset.staging.reflWire[i] = 0#8)
    ∧ (∀ i : Idx, State.reset.staging.plug[i] = i)
    ∧ State.reset.staging.plugErr = .none
    ∧ ∀ i : Idx, State.reset.staging.wbuf[i] = 0#8

/-- 70_reset_and_hazards.md R280: the reset input brings every field to its reset value (10_state.md R39; the active
tables, which it leaves unspecified, are not spoken of), from any state and also with a command in flight, whose
response is either delivered or lost. That the host's port keeps what it holds is the model's choice (log entries 5
and 6). -/
def Obligations.ResetInputRestoresResetState : Prop :=
  ∀ (s : State) (rest : List HostInput),
    (s.pending = .reset :: rest → ∃ t, step s = .next t
      ∧ t.cfgValid = false ∧ t.pos = State.reset.pos ∧ t.staging = State.reset.staging
      ∧ t.responses = s.responses ∧ t.pending = rest)
    ∧ ∀ w : Word, s.pending = .resetInFlight w :: rest → ∃ t u, step s = .next t
        ∧ step { s with pending := .command w :: rest } = .next u
        ∧ t.cfgValid = false ∧ t.pos = State.reset.pos ∧ t.staging = State.reset.staging ∧ t.pending = rest
        ∧ (t.responses = s.responses ∨ t.responses = u.responses)

/-- The invariant holds at reset. It rests on `stg_plug`'s reset value (10_state.md R35) and on `cfg_valid = 0`, not on
the values the model names for the active tables (log entry 4). -/
def Obligations.ResetIsSafe : Prop := State.reset.Inv

/-- 10_state.md R30, 41_plugboard.md R116: every step keeps the invariant. The spec marks it as its own inference. -/
def Obligations.EveryStepKeepsTheInvariant : Prop :=
  ∀ s t : State, s.Inv → step s = .next t → t.Inv

/-- 10_state.md R23, 60_exceptions.md R257: `cfg_valid` is 1 after a CFG_COMMIT exactly when that commit succeeded, and
only a successful CFG_COMMIT brings it from 0 to 1. -/
def Obligations.OnlyCommitEnables : Prop :=
  (∀ s : State, ∃ t, exec .cfgCommit s = .next t ∧ (t.cfgValid = true ↔ Committable s.staging))
    ∧ ∀ (i : Instr) (s t : State), exec i s = .next t → s.cfgValid = false → t.cfgValid = true →
        i = .cfgCommit ∧ Committable s.staging
end

