-- ==== Sys2Proof/Laws/Operands.lean ====
section
/-! SUPPORT. Laws/Operands.lean: the floor modulus as Idx arithmetic, and the laws of the alphabet functions. -/
namespace Sys2Proof.Machine

theorem mod26_val (a : Int) : ((mod26 a).val : Int) = a % 26 := by
  simp only [mod26]; omega

/-- Two integers that differ by a multiple of 26 are one index. -/
theorem mod26_congr {a b : Int} (h : (26 : Int) ∣ a - b) : mod26 a = mod26 b := by
  apply Fin.ext
  have ha := mod26_val a
  have hb := mod26_val b
  omega

@[simp] theorem mod26_idx (x : Idx) : mod26 (x.val : Int) = x := by
  apply Fin.ext
  have h := mod26_val (x.val : Int)
  omega

theorem mod26_add (x y : Idx) : mod26 ((x.val : Int) + y.val) = x + y := by
  apply Fin.ext
  have h := mod26_val ((x.val : Int) + y.val)
  rw [Fin.val_add]
  omega

theorem mod26_sub (x y : Idx) : mod26 ((x.val : Int) - y.val) = x - y := by
  apply Fin.ext
  have h := mod26_val ((x.val : Int) - y.val)
  rw [Fin.val_sub]
  omega

@[simp] theorem mod26_add_one (x : Idx) : mod26 ((x.val : Int) + 1) = x + 1 := mod26_add x 1

theorem mod26_shift_in (x p r : Idx) : mod26 ((x.val : Int) + p.val - r.val) = x + (p - r) := by
  rw [← mod26_sub p r, ← mod26_add]
  apply mod26_congr
  have h := mod26_val ((p.val : Int) - r.val)
  omega

theorem mod26_shift_out (x p r : Idx) : mod26 ((x.val : Int) - p.val + r.val) = x - (p - r) := by
  rw [← mod26_sub p r, ← mod26_sub]
  apply mod26_congr
  have h := mod26_val ((p.val : Int) - r.val)
  omega

/-- A pass is its table conjugated by the shift `pos - ring` (42_rotor.md R140, R141). -/
theorem rotorPass_eq (t : Table) (p r x : Idx) : rotorPass t p r x = t[x + (p - r)] - (p - r) := by
  simp only [rotorPass, mod26_shift_in, mod26_shift_out]

theorem isLetter_iff (u : Code) : isLetter u = true ↔ 0x41 ≤ u.toNat ∧ u.toNat ≤ 0x5A := by
  simp [isLetter, BitVec.le_def]

/-- Reading a letter's index back gives the letter (40_alphabet.md R103, R104). -/
theorem i2l_letterIndex {u : Code} (h : isLetter u = true) : i2l (letterIndex u).val = u := by
  revert u; decide

@[simp] theorem letterIndex_i2l (i : Idx) : letterIndex (i2l i.val) = i := by
  revert i; decide

@[simp] theorem isLetter_i2l (i : Idx) : isLetter (i2l i.val) = true := by
  revert i; decide

/-- Different letters have different indices. -/
theorem letterIndex_inj {u v : Code} (hu : isLetter u = true) (hv : isLetter v = true)
    (h : letterIndex u = letterIndex v) : u = v := by
  rw [← i2l_letterIndex hu, ← i2l_letterIndex hv, h]

@[simp] theorem getElem_wiringIndices (w : Wiring) (i : Nat) (h : i < 26) :
    (wiringIndices w)[i] = letterIndex w[i] := by
  simp [wiringIndices]

end Sys2Proof.Machine
end

