-- ==== Sys2Proof/Laws/State.lean ====
section
/-! SUPPORT. Laws/State.lean: for each named update of the state, one lemma per field, true by rfl, so that no later
proof unfolds a record update. -/
namespace Sys2Proof.Machine

/-! The state after `respond`. -/

/-- The state a command that ends with `respond` answers with. -/
def State.answered (s : State) (st : Status) (data : BitVec 16) : State :=
  { s with responses := s.responses ++ [responseWord st data] }

@[simp] theorem State.answered_pos (s : State) (st data) : (s.answered st data).pos = s.pos := rfl
@[simp] theorem State.answered_cfgValid (s : State) (st data) : (s.answered st data).cfgValid = s.cfgValid := rfl
@[simp] theorem State.answered_active (s : State) (st data) : (s.answered st data).active = s.active := rfl
@[simp] theorem State.answered_staging (s : State) (st data) : (s.answered st data).staging = s.staging := rfl
@[simp] theorem State.answered_pending (s : State) (st data) : (s.answered st data).pending = s.pending := rfl
@[simp] theorem State.answered_freeCount (s : State) (st data) : (s.answered st data).freeCount = s.freeCount := rfl
@[simp] theorem State.answered_responses (s : State) (st data) :
    (s.answered st data).responses = s.responses ++ [responseWord st data] := rfl

/-! One rotor's step. -/

@[simp] theorem stepRotor_pos (k : Slot) (s : State) :
    (stepRotor k s).pos = s.pos.set k.val (mod26 ((s.pos[k].val : Int) + 1)) k.isLt := rfl
@[simp] theorem stepRotor_cfgValid (k : Slot) (s : State) : (stepRotor k s).cfgValid = s.cfgValid := rfl
@[simp] theorem stepRotor_active (k : Slot) (s : State) : (stepRotor k s).active = s.active := rfl
@[simp] theorem stepRotor_staging (k : Slot) (s : State) : (stepRotor k s).staging = s.staging := rfl
@[simp] theorem stepRotor_pending (k : Slot) (s : State) : (stepRotor k s).pending = s.pending := rfl
@[simp] theorem stepRotor_responses (k : Slot) (s : State) : (stepRotor k s).responses = s.responses := rfl
@[simp] theorem stepRotor_freeCount (k : Slot) (s : State) : (stepRotor k s).freeCount = s.freeCount := rfl

/-! The reset of the block. -/

@[simp] theorem resetBlock_pos (s : State) : (resetBlock s).pos = State.reset.pos := rfl
@[simp] theorem resetBlock_cfgValid (s : State) : (resetBlock s).cfgValid = false := rfl
@[simp] theorem resetBlock_active (s : State) : (resetBlock s).active = Active.atReset := rfl
@[simp] theorem resetBlock_staging (s : State) : (resetBlock s).staging = Staging.cleared := rfl
@[simp] theorem resetBlock_pending (s : State) : (resetBlock s).pending = s.pending := rfl
@[simp] theorem resetBlock_responses (s : State) : (resetBlock s).responses = s.responses := rfl
@[simp] theorem resetBlock_freeCount (s : State) : (resetBlock s).freeCount = s.freeCount := rfl

/-! Presenting commands. -/

@[simp] theorem present_pos (is : List Instr) (s : State) : (present is s).pos = s.pos := rfl
@[simp] theorem present_cfgValid (is : List Instr) (s : State) : (present is s).cfgValid = s.cfgValid := rfl
@[simp] theorem present_active (is : List Instr) (s : State) : (present is s).active = s.active := rfl
@[simp] theorem present_staging (is : List Instr) (s : State) : (present is s).staging = s.staging := rfl
@[simp] theorem present_responses (is : List Instr) (s : State) : (present is s).responses = s.responses := rfl
@[simp] theorem present_freeCount (is : List Instr) (s : State) : (present is s).freeCount = s.freeCount := rfl
@[simp] theorem present_pending (is : List Instr) (s : State) :
    (present is s).pending = s.pending ++ is.map fun i => HostInput.command (encode i) := rfl

/-! Staging one rotor. -/

@[simp] theorem stageRotor_reflKind (e : StagedRotor) (g : Staging) : (stageRotor e g).reflKind = g.reflKind := by
  unfold stageRotor; split <;> rfl
@[simp] theorem stageRotor_reflName (e : StagedRotor) (g : Staging) : (stageRotor e g).reflName = g.reflName := by
  unfold stageRotor; split <;> rfl
@[simp] theorem stageRotor_reflWire (e : StagedRotor) (g : Staging) : (stageRotor e g).reflWire = g.reflWire := by
  unfold stageRotor; split <;> rfl
@[simp] theorem stageRotor_plug (e : StagedRotor) (g : Staging) : (stageRotor e g).plug = g.plug := by
  unfold stageRotor; split <;> rfl
@[simp] theorem stageRotor_plugErr (e : StagedRotor) (g : Staging) : (stageRotor e g).plugErr = g.plugErr := by
  unfold stageRotor; split <;> rfl
@[simp] theorem stageRotor_wbuf (e : StagedRotor) (g : Staging) : (stageRotor e g).wbuf = g.wbuf := by
  unfold stageRotor; split <;> rfl

/-! Adding a pair. -/

@[simp] theorem addPair_count (a b : Code) (g : Staging) : (addPair a b g).count = g.count := by
  unfold addPair; repeat' split
  all_goals rfl
@[simp] theorem addPair_rot (a b : Code) (g : Staging) : (addPair a b g).rot = g.rot := by
  unfold addPair; repeat' split
  all_goals rfl
@[simp] theorem addPair_reflKind (a b : Code) (g : Staging) : (addPair a b g).reflKind = g.reflKind := by
  unfold addPair; repeat' split
  all_goals rfl
@[simp] theorem addPair_reflName (a b : Code) (g : Staging) : (addPair a b g).reflName = g.reflName := by
  unfold addPair; repeat' split
  all_goals rfl
@[simp] theorem addPair_reflWire (a b : Code) (g : Staging) : (addPair a b g).reflWire = g.reflWire := by
  unfold addPair; repeat' split
  all_goals rfl
@[simp] theorem addPair_wbuf (a b : Code) (g : Staging) : (addPair a b g).wbuf = g.wbuf := by
  unfold addPair; repeat' split
  all_goals rfl

end Sys2Proof.Machine
end

