-- ==== Sys2Proof/Laws/Ops.lean ====
section
/-! SUPPORT. Laws/Ops.lean: what each shared operation can do, said once. -/
namespace Sys2Proof.Machine

/-- A command that responds answers a next state that differs by one response word (00_scope.md R9). -/
@[simp] theorem respond_eq (st : Status) (data : BitVec 16) (s : State) :
    respond st data s = .next (s.answered st data) := rfl

/-- `raise` changes no state but for the response (00_scope.md R9). -/
@[simp] theorem raise_eq (st : Status) (s : State) : raise st s = .next (s.answered st 0#16) := rfl

theorem firstFailure_cons (st : Status) (l : List Status) :
    firstFailure (st :: l) = if st = .ok then firstFailure l else st := rfl

/-- The checks give OK exactly when each of them does (44_machine.md R194). -/
theorem firstFailure_eq_ok (l : List Status) : firstFailure l = .ok ↔ ∀ st ∈ l, st = .ok := by
  induction l with
  | nil => simp [firstFailure]
  | cons st l ih =>
    rw [firstFailure_cons]
    split
    · simp [*]
    · simp [*]

/-- Staging into a free slot (42_rotor.md R132). -/
theorem stageRotor_of_lt (e : StagedRotor) (g : Staging) (h : g.count.val < 3) :
    (stageRotor e g).rot = g.rot.set g.count.val e h ∧ (stageRotor e g).count.val = g.count.val + 1 := by
  simp [stageRotor, h]

/-- Staging with three or more staged: nothing is stored (42_rotor.md R132). -/
theorem stageRotor_of_ge (e : StagedRotor) (g : Staging) (h : 3 ≤ g.count.val) :
    (stageRotor e g).rot = g.rot ∧ (stageRotor e g).count = 4 := by
  have h' : ¬ g.count.val < 3 := by omega
  simp [stageRotor, h']

theorem getElem_swapPair (t : Table) (a b z : Idx) :
    (swapPair t a b)[z] = if z = b then a else if z = a then b else t[z] := by
  simp only [swapPair, Fin.getElem_fin, Vector.getElem_set, Fin.ext_iff, eq_comm]

/-- Swapping two unpaired letters keeps an involution (41_plugboard.md R116). -/
theorem swapPair_involutive {t : Table} (h : ∀ x : Idx, t[t[x]] = x) {a b : Idx} (ha : t[a] = a) (hb : t[b] = b) :
    ∀ x : Idx, (swapPair t a b)[(swapPair t a b)[x]] = x := by
  intro x
  by_cases hxb : x = b
  · have e : (swapPair t a b)[x] = a := by rw [getElem_swapPair]; simp [hxb]
    simp only [e, getElem_swapPair]
    by_cases hab : a = b <;> simp [hab, hxb]
  · by_cases hxa : x = a
    · subst hxa
      have e : (swapPair t x b)[x] = b := by rw [getElem_swapPair]; simp [hxb]
      simp only [e]
      rw [getElem_swapPair, if_pos rfl]
    · have e : (swapPair t a b)[x] = t[x] := by rw [getElem_swapPair]; simp [hxb, hxa]
      have hb' : t[x] ≠ b := fun e => hxb (by have := h x; simp only [e, hb] at this; exact this.symm)
      have ha' : t[x] ≠ a := fun e => hxa (by have := h x; simp only [e, ha] at this; exact this.symm)
      simp only [e, getElem_swapPair, if_neg hb', if_neg ha', h x]

/-- The entries that a prefix of the fill loop has reached. -/
theorem getElem_fillFold {f : Table} (hf : ∀ i j : Idx, f[i] = f[j] → i = j) (l : List Idx) (b : Table) (i : Idx) :
    (l.foldl (fun b i => b.set f[i].val i f[i].isLt) b)[f[i]] = if i ∈ l then i else b[f[i]] := by
  induction l generalizing b with
  | nil => simp
  | cons j l ih =>
    rw [List.foldl_cons, ih]
    by_cases hi : i ∈ l
    · simp [hi]
    · by_cases hj : i = j
      · subst hj; simp [hi]
      · have hne : f[j].val ≠ f[i].val := fun e => hj (hf i j (Fin.ext e.symm))
        simp only [hi, if_false, List.mem_cons, hj, or_self, Fin.getElem_fin] at hne ⊢
        exact Vector.getElem_set_ne _ _ hne

/-- The fill loop of a permutation builds its inverse, whatever stood there (42_rotor.md R134). -/
theorem getElem_fillInverse {f : Table} (hf : ∀ i j : Idx, f[i] = f[j] → i = j) (old : Table) (i : Idx) :
    (fillInverse f old)[f[i]] = i := by
  rw [fillInverse, getElem_fillFold hf]; simp

/-- A table that is left-inverted is a permutation, so the inverse is two-sided. -/
theorem fillInverse_right {f : Table} (hf : ∀ i j : Idx, f[i] = f[j] → i = j) (old : Table) (i : Idx) :
    f[(fillInverse f old)[i]] = i := by
  have hinj : Function.Injective fun j : Idx => f[j] := fun a b h => hf a b h
  obtain ⟨j, rfl⟩ := (Finite.injective_iff_surjective.mp hinj) i
  simp only [getElem_fillInverse hf]

/-- So the fill loop forgets what stood there. -/
theorem fillInverse_forgets {f : Table} (hf : ∀ i j : Idx, f[i] = f[j] → i = j) (old old' : Table) :
    fillInverse f old = fillInverse f old' := by
  apply Vector.ext
  intro i hi
  have hinj : Function.Injective fun j : Idx => f[j] := fun a b h => hf a b h
  obtain ⟨j, hj⟩ := (Finite.injective_iff_surjective.mp hinj) ⟨i, hi⟩
  have h1 := getElem_fillInverse hf old j
  have h2 := getElem_fillInverse hf old' j
  simp only [hj, Fin.getElem_fin] at h1 h2
  rw [h1, h2]

/-- The wiring indices of a letter permutation are a permutation (42_rotor.md R144). -/
theorem wiringIndices_injective {w : Wiring} (h : IsLetterPermutation w) (i j : Idx)
    (e : (wiringIndices w)[i] = (wiringIndices w)[j]) : i = j := by
  by_contra hne
  simp only [Fin.getElem_fin, getElem_wiringIndices] at e
  exact h.2 i j hne (letterIndex_inj (h.1 i) (h.1 j) e)

end Sys2Proof.Machine
end

