-- ==== Sys2Proof/Laws/Meanings.lean ====
section
/-! SUPPORT. Laws/Meanings.lean: one spec lemma per meaning, the state it answers with, so that no later proof unfolds
a meaning again; and the inversion lemma of exec. -/
namespace Sys2Proof.Machine

theorem execCfgClear_eq (s : State) :
    execCfgClear s = .next (State.answered { s with staging := Staging.cleared } .ok 0#16) := rfl

theorem execCfgRotor_eq (name : BitVec 3) (ring pos : Code) (s : State) :
    execCfgRotor name ring pos s =
      .next (State.answered { s with staging := stageRotor (namedRotor name ring pos) s.staging } .ok 0#16) := rfl

theorem execCfgRotorRaw_eq (ring pos notch : Code) (s : State) :
    execCfgRotorRaw ring pos notch s =
      .next (State.answered
        { s with staging := stageRotor (rawRotor s.staging.wbuf ring pos notch) s.staging } .ok 0#16) := rfl

theorem execCfgWire_of_le {index : BitVec 5} (h : index.toNat < 26) (sym : Code) (s : State) :
    execCfgWire index sym s =
      .next (State.answered
        { s with staging := { s.staging with wbuf := s.staging.wbuf.set index.toNat sym h } } .ok 0#16) := by
  simp [execCfgWire, wireIndexOf, h]

theorem execCfgWire_of_gt {index : BitVec 5} (h : ¬ index.toNat < 26) (sym : Code) (s : State) :
    execCfgWire index sym s = .next (s.answered .illegalCommand 0#16) := by
  simp [execCfgWire, wireIndexOf, h]

theorem execCfgReflector_eq (name : BitVec 3) (s : State) :
    execCfgReflector name s =
      .next (State.answered
        { s with staging := { s.staging with reflKind := .named, reflName := name } } .ok 0#16) := rfl

theorem execCfgReflectorRaw_eq (s : State) :
    execCfgReflectorRaw s =
      .next (State.answered
        { s with staging := { s.staging with reflKind := .raw, reflWire := s.staging.wbuf } } .ok 0#16) := rfl

theorem execCfgPlug_eq (a b : Code) (s : State) :
    execCfgPlug a b s = .next (State.answered { s with staging := addPair a b s.staging } .ok 0#16) := rfl

theorem commit_of_ok {rom : Roms} {s : State} (h : validate rom s.staging = .ok) :
    commit rom s =
      .next (State.answered
        { s with active := builtActive rom s.staging s.active, pos := builtPos s.staging, cfgValid := true }
        .ok 0#16) := by
  simp [commit, h, commitBuild]

theorem commit_of_ne {rom : Roms} {s : State} (h : validate rom s.staging ≠ .ok) :
    commit rom s = .next (State.answered { s with cfgValid := false } (validate rom s.staging) 0#16) := by
  simp [commit, h, commitFail]

theorem execEncodeChar_of_invalid {s : State} (h : s.cfgValid = false) (c : Code) :
    execEncodeChar c s = .next (s.answered .notConfigured 0#16) := by
  simp [execEncodeChar, h]

theorem execEncodeChar_of_nonletter {s : State} (h : s.cfgValid = true) {c : Code} (hc : isKey c = false) :
    execEncodeChar c s = .next (s.answered .ok (zext16 c)) := by
  simp only [isKey] at hc
  simp [execEncodeChar, h, hc]

theorem execEncodeChar_of_key {s : State} (h : s.cfgValid = true) {c : Code} (hc : isKey c = true) :
    execEncodeChar c s =
      .next ((stepRotors s).answered .ok
        (zext16 (i2l (keypress (stepRotors s) (letterIndex (upcase c))).val))) := by
  simp only [isKey] at hc
  simp [execEncodeChar, h, hc]

theorem slotOf_of_ne {slot : BitVec 2} (h : slot ≠ 3#2) : ∃ hlt : slot.toNat < 3, slotOf slot = some ⟨slot.toNat, hlt⟩ := by
  have hlt : slot.toNat < 3 := by
    have h4 := slot.isLt
    have : slot.toNat ≠ 3 := fun e => h (BitVec.eq_of_toNat_eq (by simpa using e))
    omega
  exact ⟨hlt, by simp [slotOf, hlt]⟩

theorem execSetPosition_slot3 (sym : Code) (s : State) :
    execSetPosition 3#2 sym s = .next (s.answered .illegalCommand 0#16) := by
  simp [execSetPosition, slotOf]

theorem execSetPosition_of_invalid {slot : BitVec 2} (hs : slot ≠ 3#2) {s : State} (h : s.cfgValid = false) (sym : Code) :
    execSetPosition slot sym s = .next (s.answered .notConfigured 0#16) := by
  obtain ⟨_, e⟩ := slotOf_of_ne hs
  simp [execSetPosition, e, h]

theorem execSetPosition_of_nonletter {slot : BitVec 2} (hs : slot ≠ 3#2) {s : State} (h : s.cfgValid = true)
    {sym : Code} (hc : isKey sym = false) :
    execSetPosition slot sym s = .next (s.answered .invalidSymbol 0#16) := by
  obtain ⟨_, e⟩ := slotOf_of_ne hs
  simp only [isKey] at hc
  simp [execSetPosition, e, h, hc]

theorem execSetPosition_of_letter {slot : BitVec 2} (hlt : slot.toNat < 3) {s : State} (h : s.cfgValid = true)
    {sym : Code} (hc : isKey sym = true) :
    execSetPosition slot sym s =
      .next (State.answered { s with pos := s.pos.set slot.toNat (letterIndex (upcase sym)) hlt } .ok 0#16) := by
  simp only [isKey] at hc
  simp [execSetPosition, slotOf, hlt, h, hc]

theorem execReadState_eq (s : State) : execReadState s = .next (s.answered .ok (stateSummary s)) := rfl

/-- Stepping moves positions and nothing else. -/
theorem stepRotors_frame (s : State) :
    (stepRotors s).cfgValid = s.cfgValid ∧ (stepRotors s).active = s.active ∧ (stepRotors s).staging = s.staging
      ∧ (stepRotors s).pending = s.pending ∧ (stepRotors s).responses = s.responses
      ∧ (stepRotors s).freeCount = s.freeCount := by
  simp only [stepRotors]
  split
  · simp
  · split <;> simp

@[simp] theorem stepRotors_cfgValid (s : State) : (stepRotors s).cfgValid = s.cfgValid := (stepRotors_frame s).1
@[simp] theorem stepRotors_active (s : State) : (stepRotors s).active = s.active := (stepRotors_frame s).2.1
@[simp] theorem stepRotors_staging (s : State) : (stepRotors s).staging = s.staging := (stepRotors_frame s).2.2.1
@[simp] theorem stepRotors_pending (s : State) : (stepRotors s).pending = s.pending := (stepRotors_frame s).2.2.2.1
@[simp] theorem stepRotors_responses (s : State) : (stepRotors s).responses = s.responses :=
  (stepRotors_frame s).2.2.2.2.1
@[simp] theorem stepRotors_freeCount (s : State) : (stepRotors s).freeCount = s.freeCount :=
  (stepRotors_frame s).2.2.2.2.2

/-- Where the rotors stand after a step (44_machine.md R198). -/
theorem stepRotors_pos (s : State) :
    (stepRotors s).pos =
      if atNotch s 1 = true then #v[s.pos[0] + 1, s.pos[1] + 1, s.pos[2] + 1]
      else if atNotch s 2 = true then #v[s.pos[0], s.pos[1] + 1, s.pos[2] + 1]
      else #v[s.pos[0], s.pos[1], s.pos[2] + 1] := by
  simp only [stepRotors]
  split
  · apply Vector.ext; intro i hi
    simp only [stepRotor_pos, mod26_add_one, Vector.getElem_set]
    interval_cases i <;> simp
  · split
    · apply Vector.ext; intro i hi
      simp only [stepRotor_pos, mod26_add_one, Vector.getElem_set]
      interval_cases i <;> simp
    · apply Vector.ext; intro i hi
      simp only [stepRotor_pos, mod26_add_one, Vector.getElem_set]
      interval_cases i <;> simp

/-- The inversion lemma of exec: what a command answers is the state with one response delivered, over one of the
shapes of change that the command families have. -/
theorem exec_cases (i : Instr) (s : State) :
    (∃ g st, isStaging i = true ∧ exec i s = .next (State.answered { s with staging := g } st 0#16))
      ∨ (i = .cfgCommit ∧ validate standardRoms s.staging = .ok
          ∧ exec i s = .next (State.answered
              { s with
                active := builtActive standardRoms s.staging s.active
                pos := builtPos s.staging
                cfgValid := true } .ok 0#16))
      ∨ (i = .cfgCommit ∧ validate standardRoms s.staging ≠ .ok
          ∧ exec i s = .next (State.answered { s with cfgValid := false } (validate standardRoms s.staging) 0#16))
      ∨ (∃ c, i = .encodeChar c ∧ s.cfgValid = true ∧ isKey c = true
          ∧ exec i s = .next ((stepRotors s).answered .ok
              (zext16 (i2l (keypress (stepRotors s) (letterIndex (upcase c))).val))))
      ∨ (∃ k c p, i = .setPosition k c ∧ s.cfgValid = true
          ∧ exec i s = .next (State.answered { s with pos := p } .ok 0#16))
      ∨ ∃ st data, isStaging i = false ∧ i ≠ .cfgCommit ∧ exec i s = .next (s.answered st data) := by
  cases i with
  | cfgClear => exact .inl ⟨_, _, rfl, rfl⟩
  | cfgRotor => exact .inl ⟨_, _, rfl, rfl⟩
  | cfgWire index sym =>
    refine .inl ?_
    by_cases h : index.toNat < 26
    · exact ⟨_, _, rfl, execCfgWire_of_le h sym s⟩
    · exact ⟨s.staging, _, rfl, execCfgWire_of_gt h sym s⟩
  | cfgRotorRaw => exact .inl ⟨_, _, rfl, rfl⟩
  | cfgReflector => exact .inl ⟨_, _, rfl, rfl⟩
  | cfgReflectorRaw => exact .inl ⟨_, _, rfl, rfl⟩
  | cfgPlug => exact .inl ⟨_, _, rfl, rfl⟩
  | cfgCommit =>
    by_cases h : validate standardRoms s.staging = .ok
    · exact .inr (.inl ⟨rfl, h, commit_of_ok h⟩)
    · exact .inr (.inr (.inl ⟨rfl, h, commit_of_ne h⟩))
  | encodeChar c =>
    by_cases hv : s.cfgValid = true
    · by_cases hc : isKey c = true
      · exact .inr (.inr (.inr (.inl ⟨c, rfl, hv, hc, execEncodeChar_of_key hv hc⟩)))
      · exact .inr (.inr (.inr (.inr (.inr ⟨_, _, rfl, by simp, execEncodeChar_of_nonletter hv
          (Bool.eq_false_iff.mpr hc)⟩))))
    · exact .inr (.inr (.inr (.inr (.inr ⟨_, _, rfl, by simp, execEncodeChar_of_invalid
        (Bool.eq_false_iff.mpr hv) c⟩))))
  | setPosition k c =>
    by_cases hk : k = 3#2
    · subst hk
      exact .inr (.inr (.inr (.inr (.inr ⟨_, _, rfl, by simp, execSetPosition_slot3 c s⟩))))
    · by_cases hv : s.cfgValid = true
      · by_cases hc : isKey c = true
        · obtain ⟨hlt, _⟩ := slotOf_of_ne hk
          exact .inr (.inr (.inr (.inr (.inl ⟨k, c, _, rfl, hv, execSetPosition_of_letter hlt hv hc⟩))))
        · exact .inr (.inr (.inr (.inr (.inr ⟨_, _, rfl, by simp, execSetPosition_of_nonletter hk hv
            (Bool.eq_false_iff.mpr hc)⟩))))
      · exact .inr (.inr (.inr (.inr (.inr ⟨_, _, rfl, by simp, execSetPosition_of_invalid hk
          (Bool.eq_false_iff.mpr hv) c⟩))))
  | readState => exact .inr (.inr (.inr (.inr (.inr ⟨_, _, rfl, by simp, rfl⟩))))

end Sys2Proof.Machine
end

