-- ==== Sys2Proof/Laws/Commit.lean ====
section
/-! SUPPORT. Laws/Commit.lean: what the checks of CFG_COMMIT accept, and that what it builds is good. -/
namespace Sys2Proof.Machine

/-- Ids 5..7 are unknown (42_rotor.md R131). -/
theorem romRotor_isNone (rom : Roms) (n : BitVec 3) : (romRotor rom n).isNone = true ↔ 4 < n.toNat := by
  simp [romRotor]; omega

/-- Ids 3..7 are unknown (43_reflector.md R171). -/
theorem romReflector_isNone (rom : Roms) (n : BitVec 3) : (romReflector rom n).isNone = true ↔ 2 < n.toNat := by
  simp [romReflector]; omega

/-- The default ROMs are sound (42_rotor.md R131). -/
theorem standardRoms_sound : RomsSound standardRoms := by decide +kernel

/-- Every named rotor's wiring is a permutation and its notch a letter (42_rotor.md R131). -/
theorem romRotor_sound {rom : Roms} (hrom : RomsSound rom) {n : BitVec 3} (h : n.toNat ≤ 4) :
    ∃ e, romRotor rom n = some e ∧ IsLetterPermutation e.wiring ∧ isLetter e.notch = true := by
  have hlt : n.toNat < 5 := by omega
  exact ⟨_, by simp [romRotor, hlt], hrom ⟨n.toNat, hlt⟩⟩

theorem checkRotor_eq_ok (rom : Roms) (e : StagedRotor) : checkRotor rom e = .ok ↔ RotorOk e := by
  simp only [checkRotor, firstFailure_eq_ok, List.mem_cons, List.not_mem_nil, or_false, forall_eq_or_imp, forall_eq,
    RotorOk, RotorSourceOk]
  have hp : (if isLetter (upcase e.pos) = true then Status.ok else Status.invalidSymbol) = .ok
      ↔ isLetter (upcase e.pos) = true := by split <;> simp [*]
  rw [hp]
  refine and_congr ?_ Iff.rfl
  cases e.kind with
  | named =>
    have hn := romRotor_isNone rom e.name
    show (if (romRotor rom e.name).isNone = true then Status.unknownRotor else .ok) = .ok ↔ e.name.toNat ≤ 4
    split
    · next h => have := hn.mp h; simp; omega
    · next h => have := mt hn.mpr h; simp; omega
  | raw =>
    show (if IsLetterPermutation e.wire then Status.ok else .invalidWiring) = .ok ↔ IsLetterPermutation e.wire
    split
    · next h => exact ⟨fun _ => h, fun _ => rfl⟩
    · next h => exact ⟨fun e => (by cases e), fun e => absurd e h⟩

theorem checkReflector_eq_ok (rom : Roms) (g : Staging) : checkReflector rom g = .ok ↔ ReflectorOk g := by
  simp only [checkReflector, ReflectorOk]
  cases g.reflKind with
  | none => simp
  | named =>
    have hn := romReflector_isNone rom g.reflName
    show (if (romReflector rom g.reflName).isNone = true then Status.unknownReflector else .ok) = .ok
      ↔ g.reflName.toNat ≤ 2
    split
    · next h => have := hn.mp h; simp; omega
    · next h => have := mt hn.mpr h; simp; omega
  | raw =>
    show (if ∀ i : Idx, isLetter g.reflWire[i] = true then Status.ok else .invalidWiring) = .ok
      ↔ ∀ i : Idx, isLetter g.reflWire[i] = true
    split
    · next h => exact ⟨fun _ => h, fun _ => rfl⟩
    · next h => exact ⟨fun e => (by cases e), fun e => absurd e h⟩

theorem plugErrStatus_eq_ok (e : PlugErr) : plugErrStatus e = .ok ↔ e = .none := by
  cases e <;> simp [plugErrStatus]

/-- A statement about every slot is one about left, middle and right. -/
theorem forall_slot {p : Slot → Prop} : (∀ k, p k) ↔ p 0 ∧ p 1 ∧ p 2 := by
  constructor
  · intro h; exact ⟨h 0, h 1, h 2⟩
  · rintro ⟨h0, h1, h2⟩ k
    match k with
    | 0 => exact h0
    | 1 => exact h1
    | 2 => exact h2

/-- CFG_COMMIT's checks pass exactly on a staging area that holds a machine (44_machine.md R194). -/
theorem validate_eq_ok (rom : Roms) (g : Staging) : validate rom g = .ok ↔ Committable g := by
  have hc : (if g.count = 3 then Status.ok else .invalidRotorCount) = .ok ↔ g.count = 3 := by split <;> simp [*]
  have h0 := checkRotor_eq_ok rom (g.rot[(0 : Slot)])
  have h1 := checkRotor_eq_ok rom (g.rot[(1 : Slot)])
  have h2 := checkRotor_eq_ok rom (g.rot[(2 : Slot)])
  rw [Committable, forall_slot (p := fun k => RotorOk g.rot[k]), ← h0, ← h1, ← h2, ← checkReflector_eq_ok,
    ← plugErrStatus_eq_ok, ← hc]
  simp only [validate, firstFailure_eq_ok, List.mem_cons, List.not_mem_nil, or_false, forall_eq_or_imp, forall_eq,
    and_assoc]
  exact Iff.rfl

/-- The wiring that a checked rotor is built from is a permutation (42_rotor.md R134). -/
theorem rotorSource_permutation {rom : Roms} (hrom : RomsSound rom) {e : StagedRotor} (h : RotorSourceOk e) :
    IsLetterPermutation (rotorSource rom e).wiring := by
  simp only [RotorSourceOk] at h
  cases hk : e.kind with
  | named =>
    simp only [hk] at h
    obtain ⟨r, hr, hp, _⟩ := romRotor_sound hrom h
    simpa only [rotorSource, hk, hr, Option.getD_some] using hp
  | raw =>
    simp only [hk] at h
    simpa only [rotorSource, hk] using h

/-- A checked rotor's forward table has no two equal entries. -/
theorem builtFwd_injective {rom : Roms} (hrom : RomsSound rom) {e : StagedRotor} (h : RotorSourceOk e) (i j : Idx)
    (he : (builtFwd rom e)[i] = (builtFwd rom e)[j]) : i = j :=
  wiringIndices_injective (rotorSource_permutation hrom h) i j he

/-! The fields of what CFG_COMMIT builds, slot by slot (44_machine.md R196). -/

theorem builtActive_ring (rom : Roms) (g : Staging) (old : Active) (k : Slot) :
    (builtActive rom g old).ring[k] = ringOffset g.rot[k].ring := by simp [builtActive]
theorem builtActive_notchEn (rom : Roms) (g : Staging) (old : Active) (k : Slot) :
    (builtActive rom g old).notchEn[k] = builtNotchEn rom g.rot[k] := by simp [builtActive]
theorem builtActive_notchIdx (rom : Roms) (g : Staging) (old : Active) (k : Slot) :
    (builtActive rom g old).notchIdx[k] = builtNotchIdx rom g.rot[k] := by simp [builtActive]
theorem builtActive_fwd (rom : Roms) (g : Staging) (old : Active) (k : Slot) :
    (builtActive rom g old).fwd[k] = builtFwd rom g.rot[k] := by simp [builtActive]
theorem builtActive_bwd (rom : Roms) (g : Staging) (old : Active) (k : Slot) :
    (builtActive rom g old).bwd[k] = fillInverse (builtFwd rom g.rot[k]) old.bwd[k] := by simp [builtActive]
@[simp] theorem builtActive_refl (rom : Roms) (g : Staging) (old : Active) :
    (builtActive rom g old).refl = builtRefl rom g := rfl
@[simp] theorem builtActive_plug (rom : Roms) (g : Staging) (old : Active) :
    (builtActive rom g old).plug = g.plug := rfl
theorem builtPos_get (g : Staging) (k : Slot) : (builtPos g)[k] = letterIndex (upcase g.rot[k].pos) := by
  simp [builtPos]

/-- What a successful CFG_COMMIT builds is good (10_state.md R30). -/
theorem builtActive_good {rom : Roms} (hrom : RomsSound rom) {g : Staging} (h : Committable g)
    (hp : Involutive g.plug) (old : Active) : (builtActive rom g old).Good := by
  refine ⟨fun k => ?_, hp, fun k hn => ?_⟩
  · have hf := builtFwd_injective hrom (h.2.1 k).1
    rw [builtActive_fwd, builtActive_bwd]
    exact ⟨getElem_fillInverse hf _, fillInverse_right hf _⟩
  · rw [builtActive_notchEn, builtNotchEn] at hn
    rw [builtActive_notchIdx, builtNotchIdx]
    exact if_neg (by rw [hn]; exact Bool.false_ne_true)

/-- What a successful CFG_COMMIT builds does not depend on what stood there. -/
theorem builtActive_forgets {rom : Roms} (hrom : RomsSound rom) {g : Staging} (h : Committable g) (old old' : Active) :
    builtActive rom g old = builtActive rom g old' := by
  have hb : (builtActive rom g old).bwd = (builtActive rom g old').bwd := by
    apply Vector.ext
    intro k hk
    have e := fillInverse_forgets (builtFwd_injective hrom (h.2.1 ⟨k, hk⟩).1)
      (old.bwd[(⟨k, hk⟩ : Slot)]) (old'.bwd[(⟨k, hk⟩ : Slot)])
    rw [← builtActive_bwd rom g old, ← builtActive_bwd rom g old'] at e
    exact e
  exact congrArg (fun b => { builtActive rom g old with bwd := b }) hb

end Sys2Proof.Machine
end

