-- ==== Sys2Proof/Laws/OverRoms.lean ====
section
/-! SUPPORT. Laws/OverRoms.lean: the fixed names are the block over the default ROMs, and other ROMs change CFG_COMMIT
alone. -/
namespace Sys2Proof.Machine

/-- exec is the command over the default ROMs. -/
@[simp] theorem execOver_standardRoms : execOver standardRoms = exec := by
  funext i s; cases i <;> rfl

/-- step is the engine's step over the default ROMs. -/
@[simp] theorem stepOver_standardRoms : stepOver standardRoms = step :=
  congrArg stepWith execOver_standardRoms

/-- core is the block built with the default ROMs. -/
theorem coreOver_standardRoms : coreOver standardRoms = Sys2Proof.core := by
  simp only [coreOver, stepOver_standardRoms, Sys2Proof.core]

@[simp] theorem execOver_cfgCommit (rom : Roms) (s : State) : execOver rom .cfgCommit s = commit rom s := rfl

/-- "reached by CFG_COMMIT" (20_memory.md R50): no other command depends on the ROMs. -/
theorem execOver_of_ne {i : Instr} (h : i ≠ .cfgCommit) (rom : Roms) (s : State) : execOver rom i s = exec i s := by
  cases i <;> first | rfl | exact absurd rfl h

end Sys2Proof.Machine
end

