-- ==== Sys2Proof/Laws/PerInstr.lean ====
section
/-! SUPPORT. Laws/PerInstr.lean: the statements made per command, one lemma per constructor of Instr. Family
EncodeRow: the word of a command selects the command's own row of the opcode map (spec/30_encoding.md R74). -/
namespace Sys2Proof.Laws.EncodeRow

/-- The `mask` and `match` of a command's row (30_encoding.md R74). -/
def row : Instr → Word × Word
  | .cfgClear => (0xFFFFFFFF#32, 0x10000000#32)
  | .cfgRotor _ _ _ => (0xF80000FF#32, 0x20000000#32)
  | .cfgWire _ _ => (0xFFE0FF00#32, 0x30000000#32)
  | .cfgRotorRaw _ _ _ => (0xFF000000#32, 0x40000000#32)
  | .cfgReflector _ => (0xF8FFFFFF#32, 0x50000000#32)
  | .cfgReflectorRaw => (0xFFFFFFFF#32, 0x60000000#32)
  | .cfgPlug _ _ => (0xFFFF0000#32, 0x70000000#32)
  | .cfgCommit => (0xFFFFFFFF#32, 0x80000000#32)
  | .encodeChar _ => (0xFFFFFF00#32, 0x90000000#32)
  | .setPosition _ _ => (0xFCFFFF00#32, 0xA0000000#32)
  | .readState => (0xFFFFFFFF#32, 0xB0000000#32)

/-- The command's word, masked, is its row's match. -/
def Statement (i : Instr) : Prop := encode i &&& (row i).1 = (row i).2

/-- A word is a row's match under its mask when each of its bits is. -/
theorem and_eq_of_bits {w m v : Word} (h : ∀ j, j < 32 → (w.getLsbD j && m.getLsbD j) = v.getLsbD j) :
    w &&& m = v := by
  apply BitVec.eq_of_getLsbD_eq
  intro j hj
  rw [BitVec.getLsbD_and]
  exact h j hj

theorem cfgClear : Statement .cfgClear := by rfl

theorem cfgRotor (name : BitVec 3) (ring pos : Code) : Statement (.cfgRotor name ring pos) := by
  refine and_eq_of_bits fun j hj => ?_
  simp only [encode, row, BitVec.getLsbD_append]
  interval_cases j <;> simp

theorem cfgWire (index : BitVec 5) (sym : Code) : Statement (.cfgWire index sym) := by
  refine and_eq_of_bits fun j hj => ?_
  simp only [encode, row, BitVec.getLsbD_append]
  interval_cases j <;> simp

theorem cfgRotorRaw (ring pos notch : Code) : Statement (.cfgRotorRaw ring pos notch) := by
  refine and_eq_of_bits fun j hj => ?_
  simp only [encode, row, BitVec.getLsbD_append]
  interval_cases j <;> simp

theorem cfgReflector (name : BitVec 3) : Statement (.cfgReflector name) := by
  refine and_eq_of_bits fun j hj => ?_
  simp only [encode, row, BitVec.getLsbD_append]
  interval_cases j <;> simp

theorem cfgReflectorRaw : Statement .cfgReflectorRaw := by rfl

theorem cfgPlug (a b : Code) : Statement (.cfgPlug a b) := by
  refine and_eq_of_bits fun j hj => ?_
  simp only [encode, row, BitVec.getLsbD_append]
  interval_cases j <;> simp

theorem cfgCommit : Statement .cfgCommit := by rfl

theorem encodeChar (c : Code) : Statement (.encodeChar c) := by
  refine and_eq_of_bits fun j hj => ?_
  simp only [encode, row, BitVec.getLsbD_append]
  interval_cases j <;> simp

theorem setPosition (slot : BitVec 2) (sym : Code) : Statement (.setPosition slot sym) := by
  refine and_eq_of_bits fun j hj => ?_
  simp only [encode, row, BitVec.getLsbD_append]
  interval_cases j <;> simp

theorem readState : Statement .readState := by rfl

end Sys2Proof.Laws.EncodeRow
end

