-- ==== Sys2Proof/Tests/Slice0.lean ====
section
/-! SUPPORT. Tests/Slice0.lean: the smoke test of WellFormed, words written out bit by bit from the formats of
spec/30_encoding.md R71, small single-step tests with expected values from spec/95_test_vectors.md, and one witness
for the hypotheses of each statement of Certificates/Slice0/Obligations.lean. -/
namespace Sys2Proof.Tests
set_option Elab.async false
open Sys2Proof Sys2Proof.Machine

/-! ### Helpers -/

/-- "std" of spec/95_test_vectors.md: rotors I, II, III, ring 1, position 'A', with reflector B. -/
def stdStaging : Staging :=
  { Staging.cleared with
    count := 3
    rot := #v[namedRotor 0#3 0x01#8 0x41#8, namedRotor 1#3 0x01#8 0x41#8, namedRotor 2#3 0x01#8 0x41#8]
    reflKind := .named
    reflName := 1#3 }

/-- Reset, with a staging area in place of the empty one. -/
def staged (g : Staging) : State := { State.reset with staging := g }

/-- The machine that a commit of `g` builds, at the positions `p`. -/
def machineOf (g : Staging) (p : Vector Idx 3) : State :=
  { staged g with active := builtActive standardRoms g Active.atReset, pos := p, cfgValid := true }

/-- The std machine at the positions `p`. -/
def stdAt (p : Vector Idx 3) : State := machineOf stdStaging p

/-- The std machine at AAA. -/
def stdMachine : State := stdAt #v[0, 0, 0]

/-- std with the pairs of the known-vector configuration: AM, FI, NV, PS, TU. -/
def knownStaging : Staging :=
  { stdStaging with plug := swapPair (swapPair (swapPair (swapPair (swapPair identityTable 0 12) 5 8) 13 21) 15 18) 19 20 }

/-- What a command leaves, where it answers a next state. -/
def after (r : Result) : Option State :=
  match r with
  | .next t => some t
  | .fault _ => none
  | .refused _ => none

/-- The newest response. -/
def answer (r : Result) : Option Word := (after r).bind fun t => t.responses.getLast?

/-- The positions left. -/
def placesAfter (r : Result) : Option (Vector Idx 3) := (after r).map fun t => t.pos

/-- A wiring loaded into an otherwise blank raw rotor. -/
def rawOf (w : Wiring) (notch : Code) : StagedRotor := rawRotor w 0x01#8 0x41#8 notch

/-- All 26 codes 'A' (V-REF-6). -/
def allA : Wiring := Vector.replicate 26 0x41#8

/-- 25 letters and a blank last entry (V-REF-7). -/
def shortWiring : Wiring := rotorI.wiring.set 25 0x00#8

/-! ### WellFormed: one ill-formed term per check, and the boundaries -/

theorem test_wellFormed_refuses_index_26 : WellFormed (.cfgWire 26#5 0x41#8) = false := by decide
theorem test_wellFormed_refuses_index_31 : WellFormed (.cfgWire 31#5 0x41#8) = false := by decide
theorem test_wellFormed_accepts_index_25 : WellFormed (.cfgWire 25#5 0x41#8) = true := by decide
theorem test_wellFormed_refuses_slot_3 : WellFormed (.setPosition 3#2 0x41#8) = false := by decide
theorem test_wellFormed_accepts_slot_2 : WellFormed (.setPosition 2#2 0x41#8) = true := by decide

/-! ### Decoding: each command's word, bit by bit from R71's formats (opcode, then the fields from bit 27 down) -/

/-- Format N: opcode, 28 zeros. -/
theorem test_decode_cfgClear : decode 0b0001_0000_00000000_00000000_00000000#32 = .ok .cfgClear := by decide
/-- Format R: opcode, 0, name 3, ring 8, pos 8, zeros. -/
theorem test_decode_cfgRotor :
    decode 0b0010_0_100_11111011_01110001_00000000#32 = .ok (.cfgRotor 4#3 0xFB#8 0x71#8) := by decide
/-- Format W: opcode, 0000, 000, index 5, zeros, sym 8. -/
theorem test_decode_cfgWire :
    decode 0b0011_0000_000_11001_00000000_01011010#32 = .ok (.cfgWire 25#5 0x5A#8) := by decide
/-- Format Q: opcode, 0000, ring 8, pos 8, notch 8. -/
theorem test_decode_cfgRotorRaw :
    decode 0b0100_0000_00011010_01000010_01010001#32 = .ok (.cfgRotorRaw 0x1A#8 0x42#8 0x51#8) := by decide
/-- Format F: opcode, 0, name 3, zeros. -/
theorem test_decode_cfgReflector :
    decode 0b0101_0_010_00000000_00000000_00000000#32 = .ok (.cfgReflector 2#3) := by decide
/-- Format N. -/
theorem test_decode_cfgReflectorRaw :
    decode 0b0110_0000_00000000_00000000_00000000#32 = .ok .cfgReflectorRaw := by decide
/-- Format P: opcode, 0000, zeros, a 8, b 8. -/
theorem test_decode_cfgPlug :
    decode 0b0111_0000_00000000_01000001_01001101#32 = .ok (.cfgPlug 0x41#8 0x4D#8) := by decide
/-- Format N. -/
theorem test_decode_cfgCommit : decode 0b1000_0000_00000000_00000000_00000000#32 = .ok .cfgCommit := by decide
/-- Format C: opcode, 0000, zeros, c 8. -/
theorem test_decode_encodeChar :
    decode 0b1001_0000_00000000_00000000_01001000#32 = .ok (.encodeChar 0x48#8) := by decide
/-- Format S: opcode, 00, slot 2, zeros, sym 8. -/
theorem test_decode_setPosition :
    decode 0b1010_00_01_00000000_00000000_01100101#32 = .ok (.setPosition 1#2 0x65#8) := by decide
/-- Format N. -/
theorem test_decode_readState : decode 0b1011_0000_00000000_00000000_00000000#32 = .ok .readState := by decide

/-- The encoder gives the words of 95_test_vectors.md. -/
theorem test_encode_vectors :
    encode (.cfgRotor 4#3 0xFB#8 0x71#8) = 0x24FB7100#32 ∧ encode (.cfgWire 25#5 0x5A#8) = 0x3019005A#32
      ∧ encode (.cfgRotorRaw 0x1A#8 0x42#8 0x51#8) = 0x401A4251#32 ∧ encode (.cfgPlug 0x61#8 0x6D#8) = 0x7000616D#32
      ∧ encode (.setPosition 1#2 0x65#8) = 0xA1000065#32 := by decide

/-- R76, first bullet. -/
theorem test_decode_undefined_opcodes :
    decode 0x00000000#32 = .error .undefinedOpcode ∧ decode 0xC0000000#32 = .error .undefinedOpcode
      ∧ decode 0xFFFFFFFF#32 = .error .undefinedOpcode := by decide
/-- R75: one reserved bit in formats N, R, C and S. -/
theorem test_decode_reserved_bits :
    decode 0x10000001#32 = .error .reservedBitSet ∧ decode 0x28014100#32 = .error .reservedBitSet
      ∧ decode 0x90000141#32 = .error .reservedBitSet ∧ decode 0xA8000041#32 = .error .reservedBitSet := by decide
/-- R77: CFG_WIRE's index 26 and SET_POSITION's slot 3 (V-POS-4). -/
theorem test_decode_ranges :
    decode 0x301A0041#32 = .error .wireIndexRange ∧ decode 0xA3000041#32 = .error .slotRange := by decide
/-- R70: three bytes are no word. -/
theorem test_decode_truncated :
    decodeBytes .mostFirst [0x90#8, 0x00#8, 0x00#8] = .error .truncatedWord := by decide
/-- The two byte orders of one word (20_memory.md R53). -/
theorem test_decode_byte_orders :
    decodeBytes .mostFirst [0xA1#8, 0x00#8, 0x00#8, 0x65#8] = .ok (.setPosition 1#2 0x65#8, [])
      ∧ decodeBytes .leastFirst [0x65#8, 0x00#8, 0x00#8, 0xA1#8] = .ok (.setPosition 1#2 0x65#8, []) := by decide
theorem test_decodeTableWord :
    decodeTableWord 32 0x90000041 = some (.encodeChar 0x41#8) ∧ decodeTableWord 32 0xA3000041 = none := by decide

/-! ### Operands -/

/-- V-ALPH-3, 4, 7, 13. -/
theorem test_upcase :
    upcase 0x61#8 = 0x41#8 ∧ upcase 0x7A#8 = 0x5A#8 ∧ upcase 0x60#8 = 0x60#8 ∧ upcase 0xE1#8 = 0xE1#8 := by decide
/-- V-ALPH-1, 2, 5, 6, 15. -/
theorem test_alphabet :
    l2i 0x41#8 = some 0 ∧ l2i 0x5A#8 = some 25 ∧ l2i 0x40#8 = none ∧ l2i 0x5B#8 = none ∧ i2l 0 = 0x41#8
      ∧ i2l 25 = 0x5A#8 := by decide
/-- V-RING-3, 5, 6, 7, 8, 9. -/
theorem test_ring_offsets :
    ringOffset 0x1A#8 = 25 ∧ ringOffset 0x00#8 = 25 ∧ ringOffset 0xFF#8 = 24 ∧ ringOffset 0x7F#8 = 22
      ∧ ringOffset 0x80#8 = 1 ∧ ringOffset 0x64#8 = 21 := by decide
/-- V-ROT-2, 4, 5, 11 on rotor I. -/
theorem test_forward_passes :
    rotorPass (wiringIndices rotorI.wiring) 1 0 0 = 9 ∧ rotorPass (wiringIndices rotorI.wiring) 25 0 25 = 3
      ∧ rotorPass (wiringIndices rotorI.wiring) 0 25 0 = 9 ∧ rotorPass (wiringIndices rotorI.wiring) 20 3 5 = 10 := by
  decide +kernel
/-- V-ROT-8, 9, 10 on rotor I. -/
theorem test_backward_passes :
    rotorPass (stdMachine.active.bwd[0]) 1 0 9 = 0 ∧ rotorPass (stdMachine.active.bwd[0]) 3 5 8 = 7
      ∧ rotorPass (stdMachine.active.bwd[0]) 25 25 0 = 20 := by decide +kernel
/-- V-NOTCH-3, 4 and their neighbours, in the std machine. -/
theorem test_notches :
    atNotch (stdAt #v[0, 4, 21]) 1 = true ∧ atNotch (stdAt #v[0, 4, 21]) 2 = true
      ∧ atNotch (stdAt #v[0, 5, 20]) 1 = false ∧ atNotch (stdAt #v[0, 5, 20]) 2 = false := by decide +kernel
/-- V-REF-1, 2, 3. -/
theorem test_rom_reflectors :
    (wiringIndices reflectorB)[0] = 24 ∧ (wiringIndices reflectorA)[0] = 4 ∧ (wiringIndices reflectorC)[25] = 11 := by
  decide +kernel

/-! ### The commands, at most two tests each -/

/-- CFG_CLEAR on a running machine: the example of 44_machine.md R191. -/
theorem test_cfgClear :
    (after (exec .cfgClear stdMachine)).map (fun t => (t.staging, t.cfgValid)) = some (Staging.cleared, true) := by
  decide +kernel

/-- The first rotor goes to the left slot (42_rotor.md R132). -/
theorem test_cfgRotor_first :
    (after (exec (.cfgRotor 4#3 0xFB#8 0x71#8) State.reset)).map
        (fun t => (t.staging.count, t.staging.rot[0].name, t.staging.rot[0].ring, t.staging.rot[0].pos,
          t.staging.rot[1].ring))
      = some (1, 4#3, 0xFB#8, 0x71#8, 0x00#8) := by decide +kernel
/-- A fourth rotor makes the count 4 and stores nothing (V-CMT-4). -/
theorem test_cfgRotor_fourth :
    (after (exec (.cfgRotor 4#3 0x02#8 0x42#8) (staged stdStaging))).map (fun t => t.staging)
      = some { stdStaging with count := 4 } := by decide +kernel

/-- One entry of the buffer, as given (42_rotor.md R133). -/
theorem test_cfgWire :
    (after (exec (.cfgWire 25#5 0x7A#8) State.reset)).map (fun t => (t.staging.wbuf[25], t.staging.wbuf[24]))
      = some (0x7A#8, 0x00#8) := by decide +kernel

/-- The buffer is copied into the record (42_rotor.md R137). -/
theorem test_cfgRotorRaw :
    (after (exec (.cfgRotorRaw 0x1A#8 0x42#8 0x51#8) (staged { Staging.cleared with wbuf := allA, count := 2 }))).map
        (fun t => (t.staging.rot[2], t.staging.count))
      = some ({ kind := .raw, name := 0#3, wire := allA, notch := 0x51#8, ring := 0x1A#8, pos := 0x42#8 }, 3) := by
  decide +kernel

/-- An unknown name is staged without complaint (43_reflector.md R173). -/
theorem test_cfgReflector :
    (after (exec (.cfgReflector 7#3) State.reset)).map (fun t => (t.staging.reflKind, t.staging.reflName))
      = some (.named, 7#3) := by decide +kernel

/-- The buffer is copied, and the staged name stays (43_reflector.md R174). -/
theorem test_cfgReflectorRaw :
    (after (exec .cfgReflectorRaw (staged { stdStaging with wbuf := allA }))).map
        (fun t => (t.staging.reflKind, t.staging.reflName, t.staging.reflWire))
      = some (.raw, 1#3, allA) := by decide +kernel

/-- V-PLUG-2: lowercase letters are normalised. -/
theorem test_cfgPlug_accepts :
    (after (exec (.cfgPlug 0x61#8 0x6D#8) State.reset)).map
        (fun t => (t.staging.plug[0], t.staging.plug[12], t.staging.plug[1], t.staging.plugErr))
      = some (12, 0, 1, .none) := by decide +kernel
/-- V-PLUG-4: a pair with a digit; the response is OK all the same. -/
theorem test_cfgPlug_invalid :
    (after (exec (.cfgPlug 0x41#8 0x31#8) State.reset)).map (fun t => (t.staging.plugErr, t.responses))
      = some (.invalidPair, [0x00000000#32]) := by decide +kernel

/-- V-CMT-1. -/
theorem test_cfgCommit_std :
    (after (exec .cfgCommit (staged stdStaging))).map (fun t => (t.cfgValid, t.pos, t.responses))
      = some (true, #v[0, 0, 0], [0x00000000#32]) := by decide +kernel
/-- V-CMT-11: the position is reported before the reflector. -/
theorem test_cfgCommit_position_first :
    answer (exec .cfgCommit (staged
        { stdStaging with
          rot := stdStaging.rot.set 2 (namedRotor 2#3 0x01#8 0x31#8)
          reflName := 5#3
          plugErr := .invalidPair })) = some 0x07000000#32 := by decide +kernel

/-- The example of 44_machine.md R205: 'A' at AAA gives 'B' at AAB. -/
theorem test_encodeChar_A :
    (after (exec (.encodeChar 0x41#8) stdMachine)).map (fun t => (t.responses, t.pos))
      = some ([0x00000042#32], #v[0, 0, 1]) := by decide +kernel
/-- V-ENC-1, letter 2: 'e' at AAB gives 'L' with the known-vector plugboard (case as in V-ENC-7). -/
theorem test_encodeChar_known :
    answer (exec (.encodeChar 0x65#8) (machineOf knownStaging #v[0, 0, 1])) = some 0x0000004C#32 := by decide +kernel

/-- V-POS-2. -/
theorem test_setPosition_middle :
    (after (exec (.setPosition 1#2 0x65#8) stdMachine)).map (fun t => (t.responses, t.pos))
      = some ([0x00000000#32], #v[0, 4, 0]) := by decide +kernel
/-- V-POS-3. -/
theorem test_setPosition_digit :
    answer (exec (.setPosition 2#2 0x31#8) stdMachine) = some 0x07000000#32 := by decide +kernel

/-- V-POS-6 and V-POS-8. -/
theorem test_readState :
    answer (exec .readState (stdAt #v[25, 4, 0])) = some 0x0000E480#32
      ∧ answer (exec .readState (stdAt #v[16, 4, 21])) = some 0x0000C095#32 := by decide +kernel

/-- V-STEP-4, 5, 6. -/
theorem test_stepper :
    (stepRotors (stdAt #v[0, 4, 21])).pos = #v[1, 5, 22] ∧ (stepRotors (stdAt #v[25, 4, 25])).pos = #v[0, 5, 0]
      ∧ (stepRotors (stdAt #v[16, 0, 0])).pos = #v[16, 0, 1] := by decide +kernel

/-- V-ENC-13, through the block's own step from reset: NOT_CONFIGURED. -/
theorem test_step_first_word :
    (after (step (State.reset.withFetchWord 32 0x90000041))).map (fun t => (t.responses, t.pending))
      = some ([0x08000000#32], []) := by decide +kernel
/-- An ILLEGAL word through the block's own step. -/
theorem test_step_illegal_word :
    answer (step (stdMachine.withFetchWord 32 0xA3000041)) = some 0x09000000#32 := by decide +kernel
/-- The reset input disables a running machine (70_reset_and_hazards.md R280). -/
theorem test_step_reset_input :
    (after (step { stdMachine with pending := [.reset], responses := [0x00000042#32] })).map
        (fun t => (t.cfgValid, t.staging, t.responses))
      = some (false, Staging.cleared, [0x00000042#32]) := by decide +kernel

/-- CFG_COMMIT takes its tables from the ROMs the step is given: id 0 is V here, whose first letter is V (21). -/
theorem test_step_over_other_roms :
    (after (stepOver { standardRoms with rotors := #v[rotorV, rotorIV, rotorIII, rotorII, rotorI] }
        ((staged stdStaging).withFetchWord 32 0x80000000))).map
        (fun t => (t.responses, t.active.fwd[0][0], t.active.notchIdx[0]))
      = some ([0x00000000#32], 21, 25) := by decide +kernel

/-! ### The assembler and the pseudo-commands -/

/-- V-PLUG-12: the words of the pair-string form. -/
theorem test_assemble_pair_strings :
    assembleLine "CFG_PLUG \" am \" ; trimmed".toList = some [.cfgPlug 0x61#8 0x6D#8]
      ∧ assembleLine "CFG_PLUG \"ABC\"".toList = some [.cfgPlug 0x00#8 0x00#8] := by decide +kernel
/-- The line forms of 30_encoding.md R79. -/
theorem test_assemble_lines :
    assembleLine "CFG_ROTOR V, -5, 'q'".toList = some [.cfgRotor 4#3 0xFB#8 0x71#8]
      ∧ assembleLine "CFG_WIRE 26, 'A'".toList = none
      ∧ assembleLine "SET_POSITION R, 0x41".toList = some [.setPosition 2#2 0x41#8]
      ∧ assembleLine "CFG_REFLECTOR #7".toList = some [.cfgReflector 7#3] := by decide +kernel
/-- CONFIGURE expands to the order of 30_encoding.md R80. -/
theorem test_assemble_configure :
    assembleLine "CONFIGURE [I,II,III], [1,1,1], ['A','A','A'], B, [\"AM\"]".toList
      = some [.cfgClear, .cfgRotor 0#3 1#8 0x41#8, .cfgRotor 1#3 1#8 0x41#8, .cfgRotor 2#3 1#8 0x41#8,
          .cfgReflector 1#3, .cfgPlug 0x41#8 0x4D#8, .cfgCommit] := by decide +kernel
/-- Log entry 15: no escape in a string, and a comma before the closing bracket. -/
theorem test_assemble_choices :
    assembleLine "ENCODE_STR \"A\\\"B\"".toList = none
      ∧ assembleLine "CONFIGURE [I,], [1], ['A'], B, []".toList
        = assembleLine "CONFIGURE [I], [1], ['A'], B, []".toList := by decide +kernel
/-- LOAD_WIRING of 27 codes spoils entry 0 last (30_encoding.md R83). -/
theorem test_loadWiring_too_long :
    (loadWiring (List.replicate 27 0x41#8)).length = 27
      ∧ (loadWiring (List.replicate 27 0x41#8)).getLast? = some (.cfgWire 0#5 0x00#8) := by decide +kernel

/-! ### Witnesses: a concrete state and operands that meet each statement's hypotheses together -/

theorem std_committable : Committable stdStaging := (validate_eq_ok standardRoms _).1 (by decide +kernel)
theorem std_plug_involutive : Involutive stdStaging.plug := by decide +kernel
/-- The machine that a commit of the std staging area leaves. -/
def stdCommitted : State :=
  { staged stdStaging with
    active := builtActive standardRoms stdStaging Active.atReset, pos := builtPos stdStaging, cfgValid := true }
theorem std_commit : exec .cfgCommit (staged stdStaging) = .next (stdCommitted.answered .ok 0#16) :=
  commit_of_ok (s := staged stdStaging) ((validate_eq_ok standardRoms _).2 std_committable)
theorem std_inv : stdMachine.Inv :=
  ⟨std_plug_involutive, fun _ => builtActive_good standardRoms_sound std_committable std_plug_involutive _⟩

theorem witness_DecodeInvertsEncode :
    WellFormed (.cfgWire 25#5 0xFF#8) = true ∧ WellFormed (.setPosition 2#2 0xFF#8) = true
      ∧ WellFormed (.cfgRotor 7#3 0xFF#8 0xFF#8) = true := by decide
theorem witness_LegalWordsAreEncodings :
    decode 0x3019005A#32 = .ok (.cfgWire 25#5 0x5A#8) ∧ decode 0xA2000041#32 = .ok (.setPosition 2#2 0x41#8) := by decide
theorem witness_IllegalWordsChangeNothing_opcode :
    IllegalWord 0xC0000000#32
      ∧ { stdMachine with pending := [.command 0xC0000000#32] }.pending = .command 0xC0000000#32 :: [] :=
  ⟨.inl (by decide), rfl⟩
theorem witness_IllegalWordsChangeNothing_reserved :
    IllegalWord 0x90000141#32
      ∧ { stdMachine with pending := [.command 0x90000141#32] }.pending = .command 0x90000141#32 :: [] :=
  ⟨.inr (.inl (by decide)), rfl⟩
theorem witness_IllegalWordsChangeNothing_range :
    IllegalWord 0x301A0041#32 ∧ ¬ IllegalWord 0x30190041#32
      ∧ { stdMachine with pending := [.command 0x301A0041#32] }.pending = .command 0x301A0041#32 :: [] :=
  ⟨.inr (.inr (.inl (by decide))), by unfold IllegalWord; decide, rfl⟩
theorem witness_StepRunsTheDecodedCommand :
    (stdMachine.withFetchWord 32 0x90000041).pending = .command 0x90000041#32 :: []
      ∧ decode 0x90000041#32 = .ok (.encodeChar 0x41#8) := ⟨rfl, by decide⟩
theorem witness_ByteTransportCarriesCommands : WellFormed (.setPosition 1#2 0x65#8) = true := by decide
theorem witness_AlphabetFunctions :
    (0x61 ≤ (0x61#8 : Code).toNat ∧ (0x7A#8 : Code).toNat ≤ 0x7A)
      ∧ ¬ (0x61 ≤ (0x7B#8 : Code).toNat ∧ (0x7B#8 : Code).toNat ≤ 0x7A) ∧ isLetter 0x5A#8 = true := by decide
theorem witness_CfgRotorStagesNextSlot :
    stdMachine.staging.count.val ≠ (2 : Slot).val ∧ 3 ≤ stdMachine.staging.count.val
      ∧ State.reset.staging.count.val = (0 : Slot).val
      ∧ (staged { stdStaging with count := 2 }).staging.count.val = (2 : Slot).val := by decide
theorem witness_CfgRotorRawStagesBufferCopy :
    (staged { stdStaging with count := 4 }).staging.count.val ≠ (1 : Slot).val
      ∧ 3 ≤ (staged { stdStaging with count := 4 }).staging.count.val
      ∧ (staged { stdStaging with count := 1 }).staging.count.val = (1 : Slot).val := by decide
theorem witness_CfgWireWritesOneEntry :
    (25#5).toNat ≤ 25 ∧ 26 ≤ (26#5).toNat
      ∧ (stdMachine.withFetchWord 32 0x301A0041).pending = .command (0x3#4 ++ 0#7 ++ 26#5 ++ 0#8 ++ 0x41#8) :: [] := by
  decide
theorem witness_CfgPlugOutcomes_failed :
    (staged { stdStaging with plugErr := .conflictingPair }).staging.plugErr ≠ .none := by decide
theorem witness_CfgPlugOutcomes_invalid :
    State.reset.staging.plugErr = .none ∧ isLetter (upcase 0x40#8) = false ∧ upcase 0x61#8 = upcase 0x41#8 := by decide
theorem witness_CfgPlugOutcomes_conflict :
    (staged knownStaging).staging.plugErr = .none ∧ i2l (12 : Idx).val = upcase 0x6D#8
      ∧ i2l (25 : Idx).val = upcase 0x5A#8 ∧ (12 : Idx) ≠ 25 ∧ (staged knownStaging).staging.plug[(12 : Idx)] ≠ 12 := by
  decide +kernel
theorem witness_CfgPlugOutcomes_accepted :
    (staged knownStaging).staging.plugErr = .none ∧ i2l (1 : Idx).val = upcase 0x62#8
      ∧ i2l (25 : Idx).val = upcase 0x5A#8 ∧ (1 : Idx) ≠ 25 ∧ (staged knownStaging).staging.plug[(1 : Idx)] = 1
      ∧ (staged knownStaging).staging.plug[(25 : Idx)] = 25 := by decide +kernel
theorem witness_StagedRotorCountSaturates :
    Instr.cfgClear ∉ List.replicate 5 (Instr.cfgRotor 0#3 0x01#8 0x41#8) := by decide
theorem witness_PlugErrorIsSticky_failed :
    (∃ t, exec (.cfgPlug 0x41#8 0x42#8) (staged { stdStaging with plugErr := .invalidPair }) = .next t)
      ∧ (staged { stdStaging with plugErr := .invalidPair }).staging.plugErr ≠ .none := ⟨⟨_, rfl⟩, by decide⟩
theorem witness_PlugErrorIsSticky_set :
    ∃ t, exec (.cfgPlug 0x41#8 0x41#8) stdMachine = .next t ∧ t.staging.plugErr ≠ stdMachine.staging.plugErr :=
  ⟨_, rfl, by decide +kernel⟩
theorem witness_AcceptedPairOrderIsFree :
    [((0x41#8, 0x42#8) : Code × Code), (0x43#8, 0x44#8)].Perm [(0x43#8, 0x44#8), (0x41#8, 0x42#8)]
      ∧ ∃ t, execAll ([((0x41#8, 0x42#8) : Code × Code), (0x43#8, 0x44#8)].map fun p => .cfgPlug p.1 p.2) stdMachine
          = .next t ∧ t.staging.plugErr = .none := ⟨.swap _ _ _, _, rfl, by decide +kernel⟩
/-- Thirteen pairs, AB to YZ (V-PLUG-9). -/
theorem witness_AtMostThirteenPairs :
    ∃ t, execAll (.cfgClear :: ((List.range 13).map fun j => ((0x41#8 : Code) + BitVec.ofNat 8 (2 * j),
          (0x42#8 : Code) + BitVec.ofNat 8 (2 * j))).map fun p => .cfgPlug p.1 p.2) State.reset = .next t
      ∧ t.staging.plugErr = .none
      ∧ isLetter (upcase 0x61#8) = true ∧ isLetter (upcase 0x5A#8) = true ∧ upcase 0x61#8 ≠ upcase 0x5A#8 :=
  ⟨_, rfl, by decide +kernel⟩
theorem witness_PairStringsAreTrimmed_pair :
    (∀ c ∈ [(0x20#8 : Code), 0x09#8], isWhitespace c = true) ∧ (∀ c ∈ [(0x0D#8 : Code)], isWhitespace c = true)
      ∧ isWhitespace 0x61#8 = false ∧ isWhitespace 0x08#8 = false := by decide
/-- One code is no pair. -/
theorem witness_PairStringsAreTrimmed_other :
    (¬ ∃ lead trail x y, [(0x41#8 : Code)] = lead ++ x :: y :: trail ∧ (∀ c ∈ lead, isWhitespace c = true)
        ∧ (∀ c ∈ trail, isWhitespace c = true) ∧ isWhitespace x = false ∧ isWhitespace y = false)
      ∧ stdMachine.staging.plugErr = .none := by
  refine ⟨?_, rfl⟩
  rintro ⟨lead, trail, x, y, h, -⟩
  have := congrArg List.length h
  simp only [List.length_append, List.length_cons, List.length_nil] at this
  omega

theorem rotor_ok_zero : RotorOk stdStaging.rot[(0 : Slot)] := std_committable.2.1 0

theorem witness_CommitReportsFirstFailure_count : (staged { stdStaging with count := 4 }).staging.count ≠ 3 := by decide
/-- The middle rotor's name is unknown, and the left rotor passes. -/
theorem witness_CommitReportsFirstFailure_name :
    let g := { stdStaging with rot := stdStaging.rot.set 1 (namedRotor 5#3 0x01#8 0x41#8) }
    g.count = 3 ∧ (∀ j : Slot, j < 1 → RotorOk g.rot[j]) ∧ g.rot[(1 : Slot)].kind = .named
      ∧ 4 < g.rot[(1 : Slot)].name.toNat := by
  refine ⟨by decide, fun j hj => ?_, by decide, by decide⟩
  have : j = 0 := Fin.ext (by have := Fin.lt_def.mp hj; show j.val = 0; exact Nat.lt_one_iff.mp this)
  subst this
  exact rotor_ok_zero
theorem witness_CommitReportsFirstFailure_wiring :
    let g := { stdStaging with rot := stdStaging.rot.set 0 (rawOf allA 0x51#8) }
    g.count = 3 ∧ (∀ j : Slot, j < 0 → RotorOk g.rot[j]) ∧ g.rot[(0 : Slot)].kind = .raw
      ∧ ¬ IsLetterPermutation g.rot[(0 : Slot)].wire :=
  ⟨by decide, fun j hj => absurd hj (Fin.not_lt_zero j), by decide, by decide +kernel⟩
theorem witness_CommitReportsFirstFailure_position :
    let g := { stdStaging with rot := stdStaging.rot.set 0 (namedRotor 4#3 0x01#8 0x31#8) }
    g.count = 3 ∧ (∀ j : Slot, j < 0 → RotorOk g.rot[j]) ∧ RotorSourceOk g.rot[(0 : Slot)]
      ∧ isLetter (upcase g.rot[(0 : Slot)].pos) = false :=
  ⟨by decide, fun j hj => absurd hj (Fin.not_lt_zero j), show (4#3).toNat ≤ 4 by decide, by decide⟩
theorem witness_CommitReportsFirstFailure_reflector :
    let g := { stdStaging with reflKind := ReflKind.none }
    let h := { stdStaging with reflName := 3#3 }
    let r := { stdStaging with reflKind := ReflKind.raw, reflWire := shortWiring }
    (∀ k : Slot, RotorOk g.rot[k]) ∧ g.reflKind = .none ∧ h.reflKind = .named ∧ 2 < h.reflName.toNat
      ∧ r.reflKind = .raw ∧ ∃ i : Idx, isLetter r.reflWire[i] = false :=
  ⟨std_committable.2.1, rfl, rfl, by decide, rfl, 25, by decide +kernel⟩
theorem witness_CommitReportsFirstFailure_plugboard :
    let g := { stdStaging with plugErr := PlugErr.conflictingPair }
    let h := { stdStaging with plugErr := PlugErr.invalidPair }
    (∀ k : Slot, RotorOk g.rot[k]) ∧ ReflectorOk g ∧ ReflectorOk h ∧ g.plugErr = .conflictingPair
      ∧ h.plugErr = .invalidPair ∧ stdStaging.plugErr = .none :=
  ⟨std_committable.2.1, std_committable.2.2.1, std_committable.2.2.1, rfl, rfl, rfl⟩
theorem witness_FailedCommitDisablesMachine : ¬ Committable (machineOf { stdStaging with count := 4 } #v[0, 0, 2]).staging :=
  fun h => absurd h.1 (by decide)
theorem witness_CommitBuildsMachine_named :
    Committable (staged stdStaging).staging ∧ stdStaging.rot[(2 : Slot)].kind = .named
      ∧ standardRoms.rotors[stdStaging.rot[(2 : Slot)].name.toNat]? = some rotorIII ∧ stdStaging.reflKind = .named
      ∧ standardRoms.reflectors[stdStaging.reflName.toNat]? = some reflectorB :=
  ⟨std_committable, rfl, rfl, rfl, rfl⟩
/-- Two raw rotors, one with a notch that is no letter, and a raw reflector. -/
theorem witness_CommitBuildsMachine_raw :
    let g := { stdStaging with
      rot := #v[rawOf rotorI.wiring 0x51#8, rawOf rotorII.wiring 0x71#8, namedRotor 2#3 0x01#8 0x41#8]
      reflKind := ReflKind.raw
      reflWire := allA }
    Committable g ∧ g.rot[(0 : Slot)].kind = .raw ∧ isLetter g.rot[(0 : Slot)].notch = true
      ∧ g.rot[(1 : Slot)].kind = .raw ∧ isLetter g.rot[(1 : Slot)].notch = false ∧ g.reflKind = .raw :=
  ⟨(validate_eq_ok standardRoms _).1 (by decide +kernel), rfl, by decide, rfl, by decide, rfl⟩
theorem witness_RestartRebuildsTheMachine :
    Committable (staged stdStaging).staging ∧ (∃ t, exec .cfgCommit (staged stdStaging) = .next t)
      ∧ ∀ i ∈ [Instr.encodeChar 0x41#8, .setPosition 0#2 0x42#8, .readState],
          (∃ c, i = .encodeChar c) ∨ (∃ k c, i = .setPosition k c) ∨ i = .readState :=
  ⟨std_committable, ⟨_, std_commit⟩, by simp⟩
theorem witness_IdempotentCommands_repeat :
    ∃ t r, exec (.setPosition 1#2 0x65#8) stdMachine = .next t ∧ Answered stdMachine t r :=
  ⟨_, 0x00000000#32, rfl, by decide +kernel⟩
theorem witness_IdempotentCommands_pair :
    ∃ t, exec (.cfgPlug 0x41#8 0x5A#8) stdMachine = .next t ∧ t.staging.plugErr = .none :=
  ⟨_, rfl, by decide +kernel⟩
/-- ROMs other than the default: the rotors in the opposite order. -/
def otherRoms : Roms := { standardRoms with rotors := #v[rotorV, rotorIV, rotorIII, rotorII, rotorI] }
theorem witness_AnySoundRomsKeepTheInvariant :
    RomsSound otherRoms ∧ stdMachine.Inv ∧ Committable (staged stdStaging).staging
      ∧ (staged stdStaging).staging.rot[(0 : Slot)].kind = .named
      ∧ otherRoms.rotors[(staged stdStaging).staging.rot[(0 : Slot)].name.toNat]? = some rotorV
      ∧ IsLetterPermutation rotorV.wiring :=
  ⟨by decide +kernel, std_inv, std_committable, rfl, rfl, by decide +kernel⟩
/-- Both sides of the equivalence: the known-vector configuration, and one with an unknown rotor. -/
theorem witness_ConfigureAcceptsExactlyValid :
    ValidConfiguration
        { rotors := [⟨0#3, 0x01#8, 0x41#8⟩, ⟨1#3, 0x01#8, 0x41#8⟩, ⟨4#3, 0x01#8, 0x7A#8⟩]
          refl := 2#3
          pairs := [(0x41#8, 0x4D#8), (0x66#8, 0x49#8)] }
      ∧ ¬ ValidConfiguration
          { rotors := [⟨5#3, 0x01#8, 0x41#8⟩, ⟨1#3, 0x01#8, 0x41#8⟩, ⟨2#3, 0x01#8, 0x41#8⟩]
            refl := 2#3
            pairs := [] } := by
  constructor
  · simp [ValidConfiguration, DisjointPairs, upcase, isLetter]
  · simp [ValidConfiguration]

/-- The middle rotor at its notch E. -/
theorem witness_KeypressStepsRotors_middle :
    (stdAt #v[0, 4, 21]).cfgValid = true ∧ isKey 0x7A#8 = true ∧ (stdAt #v[0, 4, 21]).active.notchEn[1] = true
      ∧ (stdAt #v[0, 4, 21]).pos[1] = (stdAt #v[0, 4, 21]).active.notchIdx[1] := by decide +kernel
/-- The right rotor at its notch V, and then past it, with the middle rotor off its own. -/
theorem witness_KeypressStepsRotors_right :
    (stdAt #v[0, 3, 21]).pos[1] ≠ (stdAt #v[0, 3, 21]).active.notchIdx[1]
      ∧ (stdAt #v[0, 3, 21]).active.notchEn[2] = true
      ∧ (stdAt #v[0, 3, 21]).pos[2] = (stdAt #v[0, 3, 21]).active.notchIdx[2]
      ∧ (stdAt #v[0, 3, 22]).pos[2] ≠ (stdAt #v[0, 3, 22]).active.notchIdx[2] := by decide +kernel
/-- The known sequence's start ADV, and its start ADU (V-STEP-3). -/
theorem witness_DoubleStep :
    let s := stdAt #v[0, 3, 21]
    s.cfgValid = true ∧ isKey 0x41#8 = true ∧ s.active.notchEn[1] = true ∧ s.active.notchEn[2] = true
      ∧ s.active.notchIdx[1] = s.pos[1] + 1 ∧ s.pos[2] = s.active.notchIdx[2]
      ∧ s.active.notchIdx[1] = 4 ∧ s.active.notchIdx[2] = 21 ∧ (stdAt #v[0, 3, 20]).pos = #v[0, 3, 20] := by
  decide +kernel
theorem witness_TwoKeypressesReachTheCycle :
    stdMachine.active.notchEn[1] = true ∧ stdMachine.active.notchEn[2] = true := by decide +kernel
/-- AAA is on the cycle (44_machine.md R201), and AEA is not. -/
theorem witness_StepperCycleHasPeriod16900 :
    stdMachine.active.notchEn[1] = true ∧ stdMachine.active.notchEn[2] = true ∧ OnCycle stdMachine
      ∧ ¬ OnCycle (stdAt #v[0, 4, 0]) ∧ (stdAt #v[25, 25, 25]).active = stdMachine.active
      ∧ OnCycle (stdAt #v[25, 25, 25]) := by
  unfold OnCycle; decide +kernel
/-- V-STEP-10's right rotor: notch code 0x00. And a middle rotor whose notch is lowercase. -/
theorem witness_DisabledNotchesCarryNothing :
    let s := machineOf { stdStaging with rot := stdStaging.rot.set 2 (rawOf rotorIII.wiring 0x00#8) } #v[0, 0, 21]
    let u := machineOf { stdStaging with rot := stdStaging.rot.set 1 (rawOf rotorII.wiring 0x65#8) } #v[0, 4, 0]
    s.cfgValid = true ∧ s.active.notchEn[2] = false
      ∧ ¬ (s.active.notchEn[1] = true ∧ s.pos[1] = s.active.notchIdx[1]) ∧ u.active.notchEn[1] = false := by
  decide +kernel
theorem witness_OnlyKeypressesStep :
    ∃ t, exec (.encodeChar 0x41#8) stdMachine = .next t ∧ t.pos ≠ stdMachine.pos :=
  ⟨_, execEncodeChar_of_key rfl (by decide), by decide +kernel⟩
theorem witness_PassesAreInverse : stdMachine.Inv ∧ stdMachine.cfgValid = true := ⟨std_inv, rfl⟩
theorem witness_EncodeCharRunsThePipeline :
    State.reset.cfgValid = false ∧ stdMachine.cfgValid = true ∧ isKey 0x5B#8 = false
      ∧ i2l (25 : Idx).val = upcase 0x7A#8 := by decide
theorem witness_NonLettersChangeNoCiphertext : stdMachine.cfgValid = true := rfl
theorem witness_OutputIsUppercase : stdMachine.cfgValid = true ∧ isKey 0x61#8 = true := by decide
/-- The text of two codes, its two responses, and a non-letter in it. -/
theorem witness_StringEncodingIsOneToOne :
    stdMachine.cfgValid = true ∧ [(0x41#8 : Code), 0x20#8][1]? = some 0x20#8
      ∧ [(0x42#32 : Word), 0x20#32][1]? = some 0x20#32 ∧ isKey 0x20#8 = false := by decide
theorem std_refl_involutive : Involutive (builtRefl standardRoms stdStaging) := by decide +kernel
theorem witness_KeypressPermutationIsInvolution :
    stdMachine.Inv ∧ stdMachine.cfgValid = true ∧ Involutive stdMachine.active.refl := ⟨std_inv, rfl, std_refl_involutive⟩
theorem witness_NoLetterEncodesToItself :
    stdMachine.Inv ∧ stdMachine.cfgValid = true ∧ NoFixedPoint stdMachine.active.refl ∧ isKey 0x41#8 = true :=
  ⟨std_inv, rfl, by decide +kernel, by decide⟩
theorem witness_RestartDecrypts :
    Involutive (staged stdStaging).staging.plug ∧ Committable (staged stdStaging).staging
      ∧ Involutive (builtRefl standardRoms (staged stdStaging).staging) ∧ (staged stdStaging).pending = [] :=
  ⟨std_plug_involutive, std_committable, std_refl_involutive, rfl⟩
/-- Slot 2 and slot 0 are in range; slot 3 is not (V-POS-1 to V-POS-4). -/
theorem witness_SetPositionOverwritesOneRotor :
    (2#2 ≠ 3#2) ∧ (0#2 ≠ 3#2) ∧ State.reset.cfgValid = false ∧ stdMachine.cfgValid = true ∧ isKey 0x31#8 = false
      ∧ isKey 0x65#8 = true ∧ (2 : Slot).val = (2#2).toNat ∧ (1 : Slot).val ≠ (2#2).toNat
      ∧ (stdMachine.withFetchWord 32 0xA3000041).pending = .command (0xA#4 ++ 0#2 ++ 3#2 ++ 0#16 ++ 0x41#8) :: [] := by
  decide
theorem witness_OneResponsePerCommand :
    (stdMachine.withFetchWord 32 0x90000041).pending = .command 0x90000041#32 :: [] := rfl
/-- A failed CFG_COMMIT, and an ENCODE_CHAR that is not configured. -/
theorem witness_ErrorsChangeNothing :
    (∃ t, step (State.reset.withFetchWord 32 0x90000041) = .next t
        ∧ t.responses = State.reset.responses ++ [0x08000000#32] ∧ responseStatus 0x08000000#32 ≠ 0#8)
      ∧ ∃ t, step (State.reset.withFetchWord 32 0x80000000) = .next t
        ∧ t.responses = State.reset.responses ++ [0x04000000#32] ∧ responseStatus 0x04000000#32 ≠ 0#8 :=
  ⟨⟨_, rfl, by decide +kernel⟩, _, rfl, by decide +kernel⟩
theorem witness_FieldWriters_commit :
    ∃ t, exec .cfgCommit (staged stdStaging) = .next t ∧ t.cfgValid ≠ (staged stdStaging).cfgValid
      ∧ t.active ≠ (staged stdStaging).active :=
  ⟨_, std_commit, by decide, by decide +kernel⟩
theorem witness_FieldWriters_staging :
    (∃ t, exec (.cfgWire 25#5 0x41#8) State.reset = .next t ∧ t.staging.wbuf ≠ State.reset.staging.wbuf)
      ∧ (∃ t, exec (.cfgRotor 1#3 0x01#8 0x41#8) State.reset = .next t ∧ t.staging.rot ≠ State.reset.staging.rot)
      ∧ ∃ t, exec (.cfgPlug 0x41#8 0x42#8) State.reset = .next t ∧ t.staging.plug ≠ State.reset.staging.plug :=
  ⟨⟨_, rfl, by decide +kernel⟩, ⟨_, rfl, by decide +kernel⟩, _, rfl, by decide +kernel⟩
theorem witness_StagingDoesNotReconfigure :
    ∀ i ∈ [Instr.encodeChar 0x41#8, .cfgClear, .readState, .encodeChar 0x42#8],
      isStaging i = true ∨ i = .readState ∨ ∃ c, i = .encodeChar c := by simp [isStaging]
/-- The same block, with other host-port fields. -/
theorem witness_ResponsesDependOnBlockOnly :
    SameBlock stdMachine { stdMachine with responses := [0x00000042#32], pending := [.reset], freeCount := 7 } :=
  ⟨rfl, rfl, rfl, rfl⟩
theorem witness_UnconfiguredTablesAreUnobservable :
    State.reset.cfgValid = false ∧ stdMachine.active ≠ State.reset.active := by decide +kernel
theorem witness_CommandsTakeEffectInOrder :
    (∀ i ∈ [Instr.cfgClear, .cfgWire 25#5 0x41#8], WellFormed i = true)
      ∧ { stdMachine with
            pending := [.command 0x10000000#32, .command 0x30190041#32, .command 0xB0000000#32] }.pending
          = ([Instr.cfgClear, .cfgWire 25#5 0x41#8].map fun i => HostInput.command (encode i))
            ++ [.command 0xB0000000#32] := by decide
theorem witness_IdleHoldsState : stdMachine.pending = [] := rfl
theorem witness_EnginesNeverAffectEachOther :
    [State.reset, stdMachine][1]? = some stdMachine ∧ [1, 0, 1].count 1 = 2 := ⟨rfl, by decide⟩
theorem witness_ResetInputRestoresResetState :
    { stdMachine with pending := [.reset] }.pending = .reset :: []
      ∧ { stdMachine with pending := [.resetInFlight 0x90000041#32] }.pending = .resetInFlight 0x90000041#32 :: [] :=
  ⟨rfl, rfl⟩
/-- A keypress from a safe machine: a step that changes the state. -/
theorem witness_EveryStepKeepsTheInvariant :
    (stdMachine.withFetchWord 32 0x90000041).Inv ∧ ∃ t, step (stdMachine.withFetchWord 32 0x90000041) = .next t
      ∧ t.pos ≠ stdMachine.pos :=
  ⟨std_inv, _, rfl, by decide +kernel⟩
theorem witness_OnlyCommitEnables :
    ∃ t, exec .cfgCommit (staged stdStaging) = .next t ∧ (staged stdStaging).cfgValid = false ∧ t.cfgValid = true :=
  ⟨_, std_commit, rfl, rfl⟩

end Sys2Proof.Tests
end

section
/-! The staging area: what each command leaves in it, said once, and the state (spec/10_state.md sections 3 and 5). -/
namespace Sys2Proof.Machine

/-- The staging area that a command leaves, as a function of the one it meets (10_state.md R31); `exec_staging` ties it
to exec. -/
def nextStaging (i : Instr) (g : Staging) : Staging :=
  match i with
  | .cfgClear => Staging.cleared
  | .cfgRotor name ring pos => stageRotor (namedRotor name ring pos) g
  | .cfgWire index sym =>
    if h : index.toNat < 26 then { g with wbuf := g.wbuf.set index.toNat sym h } else g
  | .cfgRotorRaw ring pos notch => stageRotor (rawRotor g.wbuf ring pos notch) g
  | .cfgReflector name => { g with reflKind := .named, reflName := name }
  | .cfgReflectorRaw => { g with reflKind := .raw, reflWire := g.wbuf }
  | .cfgPlug a b => addPair a b g
  | .cfgCommit => g
  | .encodeChar _ => g
  | .setPosition _ _ => g
  | .readState => g

/-- A staging command writes the staging area alone, and its status does not depend on the state. -/
theorem exec_of_isStaging {i : Instr} (h : isStaging i = true) :
    ∃ st, ∀ s, exec i s = .next (State.answered { s with staging := nextStaging i s.staging } st 0#16) := by
  cases i with
  | cfgClear => exact ⟨_, execCfgClear_eq⟩
  | cfgRotor name ring pos => exact ⟨_, execCfgRotor_eq name ring pos⟩
  | cfgWire index sym =>
    by_cases hlt : index.toNat < 26
    · exact ⟨.ok, fun s => by simpa only [exec, nextStaging, dif_pos hlt] using execCfgWire_of_le hlt sym s⟩
    · exact ⟨.illegalCommand, fun s => by simpa only [exec, nextStaging, dif_neg hlt] using execCfgWire_of_gt hlt sym s⟩
  | cfgRotorRaw ring pos notch => exact ⟨_, execCfgRotorRaw_eq ring pos notch⟩
  | cfgReflector name => exact ⟨_, execCfgReflector_eq name⟩
  | cfgReflectorRaw => exact ⟨_, execCfgReflectorRaw_eq⟩
  | cfgPlug a b => exact ⟨_, execCfgPlug_eq a b⟩
  | cfgCommit | encodeChar | setPosition | readState => cases h

theorem nextStaging_of_not_isStaging {i : Instr} (h : isStaging i = false) (g : Staging) : nextStaging i g = g := by
  cases i with
  | cfgCommit | encodeChar | setPosition | readState => rfl
  | cfgClear | cfgRotor | cfgWire | cfgRotorRaw | cfgReflector | cfgReflectorRaw | cfgPlug => cases h

/-- Every command leaves the staging area that `nextStaging` names. -/
theorem exec_staging {i : Instr} {s t : State} (h : exec i s = .next t) : t.staging = nextStaging i s.staging := by
  cases hi : isStaging i with
  | true =>
    obtain ⟨st, hexec⟩ := exec_of_isStaging hi
    cases (hexec s).symm.trans h
    rfl
  | false =>
    rw [nextStaging_of_not_isStaging hi]
    obtain ⟨_, _, hi', _⟩ | ⟨_, _, e⟩ | ⟨_, _, e⟩ | ⟨_, _, _, _, e⟩ | ⟨_, _, _, _, _, e⟩ | ⟨_, _, _, _, e⟩ :=
      exec_cases i s
    · rw [hi] at hi'; cases hi'
    all_goals cases e.symm.trans h; simp

/-- Every command answers with exactly one response and leaves the host's port alone (30_encoding.md R72). -/
theorem exec_answers (i : Instr) (s : State) : ∃ t w, exec i s = .next t ∧ Answered s t w := by
  obtain ⟨_, _, _, e⟩ | ⟨_, _, e⟩ | ⟨_, _, e⟩ | ⟨_, _, _, _, e⟩ | ⟨_, _, _, _, _, e⟩ | ⟨_, _, _, _, e⟩ := exec_cases i s
  case inr.inr.inr.inl =>
    exact ⟨_, _, e, congrArg (· ++ _) (stepRotors_responses s), stepRotors_pending s, stepRotors_freeCount s⟩
  all_goals exact ⟨_, _, e, rfl, rfl, rfl⟩

/-- Only CFG_COMMIT writes `cfg_valid` and the active configuration (10_state.md R31). -/
theorem exec_keeps_machine {i : Instr} {s t : State} (h : exec i s = .next t) (hi : i ≠ .cfgCommit) :
    t.cfgValid = s.cfgValid ∧ t.active = s.active := by
  obtain ⟨_, _, _, e⟩ | ⟨hc, _, _⟩ | ⟨hc, _, _⟩ | ⟨_, _, _, _, e⟩ | ⟨_, _, _, _, _, e⟩ | ⟨_, _, _, _, e⟩ :=
    exec_cases i s
  case inr.inl => exact absurd hc hi
  case inr.inr.inl => exact absurd hc hi
  all_goals cases e.symm.trans h; simp

/-- CFG_COMMIT succeeds on a staging area that passes every check, and otherwise leaves the active configuration alone
(44_machine.md R195, R196). -/
theorem execCfgCommit_inv {s t : State} (h : exec .cfgCommit s = .next t) :
    (Committable s.staging ∧ t.cfgValid = true)
      ∨ (¬ Committable s.staging ∧ t.cfgValid = false ∧ t.active = s.active) := by
  by_cases hg : Committable s.staging
  · cases (commit_of_ok ((validate_eq_ok standardRoms _).2 hg)).symm.trans h
    exact .inl ⟨hg, rfl⟩
  · cases (commit_of_ne (mt (validate_eq_ok standardRoms _).1 hg)).symm.trans h
    exact .inr ⟨hg, rfl, rfl⟩

/-- `stg_count` goes up by one for a staged rotor, saturating at 4 (10_state.md R32). -/
theorem stageRotor_count (e : StagedRotor) (g : Staging) :
    (stageRotor e g).count.val = min (g.count.val + 1) 4 := by
  by_cases h : g.count.val < 3
  · rw [(stageRotor_of_lt e g h).2]; omega
  · rw [(stageRotor_of_ge e g (by omega)).2]
    show 4 = min (g.count.val + 1) 4
    omega

/-- A pair after the first failure is dropped (10_state.md R24). -/
theorem addPair_of_failed {g : Staging} (h : g.plugErr ≠ .none) (a b : Code) : addPair a b g = g := if_pos h

/-- An accepted pair swaps two letters that are their own partners (41_plugboard.md R116). -/
theorem addPair_plug_involutive (a b : Code) {g : Staging} (h : Involutive g.plug) :
    Involutive (addPair a b g).plug := by
  unfold addPair
  split_ifs with _ _ hc
  · exact h
  · exact h
  · exact h
  · simp only [pairConflicts, Bool.or_eq_true, bne_iff_ne, not_or, not_not] at hc
    obtain ⟨ha, hb⟩ := hc
    exact swapPair_involutive h ha hb

/-! Which commands write which field of the staging area (10_state.md R24, R32 to R36). -/

theorem nextStaging_count {i : Instr} (h : i ≠ .cfgClear) (g : Staging) :
    (nextStaging i g).count.val = min (g.count.val + if stagesRotor i = true then 1 else 0) 4 := by
  have hle : g.count.val ≤ 4 := by omega
  cases i with
  | cfgClear => exact absurd rfl h
  | cfgRotor | cfgRotorRaw => exact stageRotor_count _ g
  | cfgWire => simp only [nextStaging]; split <;> simp [stagesRotor, hle]
  | cfgReflector | cfgReflectorRaw | cfgPlug | cfgCommit | encodeChar | setPosition | readState =>
    simp [nextStaging, stagesRotor, hle]

theorem nextStaging_rot {i : Instr} (hc : i ≠ .cfgClear) (hi : stagesRotor i = false) (g : Staging) :
    (nextStaging i g).rot = g.rot := by
  cases i with
  | cfgClear => exact absurd rfl hc
  | cfgRotor | cfgRotorRaw => cases hi
  | cfgWire => simp only [nextStaging]; split <;> rfl
  | cfgPlug a b => exact addPair_rot a b g
  | cfgReflector | cfgReflectorRaw | cfgCommit | encodeChar | setPosition | readState => rfl

theorem nextStaging_wbuf {i : Instr} (hc : i ≠ .cfgClear) (hi : ∀ j c, i ≠ .cfgWire j c) (g : Staging) :
    (nextStaging i g).wbuf = g.wbuf := by
  cases i with
  | cfgClear => exact absurd rfl hc
  | cfgWire j c => exact absurd rfl (hi j c)
  | cfgRotor | cfgRotorRaw => exact stageRotor_wbuf _ g
  | cfgPlug a b => exact addPair_wbuf a b g
  | cfgReflector | cfgReflectorRaw | cfgCommit | encodeChar | setPosition | readState => rfl

/-- Only CFG_CLEAR and CFG_PLUG write the plugboard under construction and its error. -/
theorem nextStaging_plugboard {i : Instr} (hc : i ≠ .cfgClear) (hi : ∀ a b, i ≠ .cfgPlug a b) (g : Staging) :
    (nextStaging i g).plug = g.plug ∧ (nextStaging i g).plugErr = g.plugErr := by
  cases i with
  | cfgClear => exact absurd rfl hc
  | cfgPlug a b => exact absurd rfl (hi a b)
  | cfgRotor | cfgRotorRaw => exact ⟨stageRotor_plug _ g, stageRotor_plugErr _ g⟩
  | cfgWire => simp only [nextStaging]; split <;> exact ⟨rfl, rfl⟩
  | cfgReflector | cfgReflectorRaw | cfgCommit | encodeChar | setPosition | readState => exact ⟨rfl, rfl⟩

theorem identityTable_involutive : Involutive identityTable := fun x => by simp [identityTable]

/-- No command breaks the involution of `stg_plug` (41_plugboard.md R116). -/
theorem nextStaging_plug_involutive (i : Instr) {g : Staging} (h : Involutive g.plug) :
    Involutive (nextStaging i g).plug := by
  by_cases hc : i = .cfgClear
  · subst hc; exact identityTable_involutive
  · by_cases hp : ∃ a b, i = .cfgPlug a b
    · obtain ⟨a, b, rfl⟩ := hp; exact addPair_plug_involutive a b h
    · rw [(nextStaging_plugboard hc (fun a b e => hp ⟨a, b, e⟩) g).1]; exact h

/-! Commands one after another. -/

theorem execAll_cons {i : Instr} {s t : State} (h : exec i s = .next t) (is : List Instr) :
    execAll (i :: is) s = execAll is t := by
  simp only [execAll, h]

/-- Without a CFG_CLEAR among them, commands add the rotors they stage to `stg_count`, which saturates at 4. -/
theorem execAll_count {is : List Instr} (h : .cfgClear ∉ is) (s : State) :
    ∃ t, execAll is s = .next t
      ∧ t.staging.count.val = min (s.staging.count.val + is.countP stagesRotor) 4 := by
  induction is generalizing s with
  | nil => exact ⟨s, rfl, by simp; omega⟩
  | cons i is ih =>
    obtain ⟨hi, his⟩ := List.ne_and_not_mem_of_not_mem_cons h
    obtain ⟨u, _, hu, _⟩ := exec_answers i s
    obtain ⟨t, ht, hcount⟩ := ih his u
    refine ⟨t, (execAll_cons hu is).trans ht, ?_⟩
    rw [hcount, exec_staging hu, nextStaging_count hi.symm, List.countP_cons]
    omega

/-- Settles O16: an induction over the commands that follow the CFG_CLEAR. -/
theorem stagedRotorCountSaturates : Obligations.StagedRotorCountSaturates := by
  intro is s h
  obtain ⟨t, ht, hcount⟩ := execAll_count h (State.answered { s with staging := Staging.cleared } .ok 0#16)
  refine ⟨t, (execAll_cons (i := .cfgClear) (execCfgClear_eq s) is).trans ht, ?_⟩
  simpa [Staging.cleared] using hcount

/-- Settles O17: only CFG_PLUG can touch the pair of fields, and after a failure it adds nothing. -/
theorem plugErrorIsSticky : Obligations.PlugErrorIsSticky := by
  intro i s t h hc
  rw [exec_staging h]
  by_cases hp : ∃ a b, i = .cfgPlug a b
  · refine ⟨fun hfail => ?_, fun _ => hp⟩
    obtain ⟨a, b, rfl⟩ := hp
    have hkeep : nextStaging (.cfgPlug a b) s.staging = s.staging := addPair_of_failed hfail a b
    rw [hkeep]; exact ⟨rfl, rfl⟩
  · obtain ⟨hplug, herr⟩ := nextStaging_plugboard hc (fun a b e => hp ⟨a, b, e⟩) s.staging
    exact ⟨fun _ => ⟨herr, hplug⟩, fun hne => absurd herr hne⟩

/-- Settles O49: each clause is the contrapositive of a frame lemma. -/
theorem fieldWriters : Obligations.FieldWriters := by
  intro i s t h
  have hstg := exec_staging h
  refine ⟨fun hne => ?_, fun hne => ?_, fun hne => ?_, fun hne => ?_, fun hne => ?_, fun hne => ?_⟩
  · by_contra hi
    exact hne (exec_keeps_machine h hi).1
  · by_cases hi : i = .cfgCommit
    · subst hi
      obtain ⟨hg, hv⟩ | ⟨_, _, hkeep⟩ := execCfgCommit_inv h
      · exact ⟨rfl, hg, hv⟩
      · exact absurd hkeep hne
    · exact absurd (exec_keeps_machine h hi).2 hne
  · by_contra hi
    exact hne (hstg.trans (nextStaging_of_not_isStaging (Bool.eq_false_iff.mpr hi) _))
  · by_contra hi
    obtain ⟨hc, hw⟩ := not_or.mp hi
    exact hne (hstg ▸ nextStaging_wbuf hc (fun j c e => hw ⟨j, c, e⟩) _)
  · by_contra hi
    obtain ⟨hc, hr⟩ := not_or.mp hi
    exact hne (hstg ▸ nextStaging_rot hc (Bool.eq_false_iff.mpr hr) _)
  · by_contra hi
    obtain ⟨hc, hp⟩ := not_or.mp hi
    exact hne (hstg ▸ (nextStaging_plugboard hc (fun a b e => hp ⟨a, b, e⟩) _).1)

/-- Settles O60: CFG_COMMIT either succeeds or clears `cfg_valid`, and no other command writes it. -/
theorem onlyCommitEnables : Obligations.OnlyCommitEnables := by
  refine ⟨fun s => ?_, fun i s t h hs ht => ?_⟩
  · obtain ⟨t, _, h, _⟩ := exec_answers .cfgCommit s
    refine ⟨t, h, ?_⟩
    obtain ⟨hg, hv⟩ | ⟨hg, hv, _⟩ := execCfgCommit_inv h
    · exact iff_of_true hv hg
    · exact iff_of_false (by simp [hv]) hg
  · by_cases hi : i = .cfgCommit
    · subst hi
      obtain ⟨hg, _⟩ | ⟨_, hv, _⟩ := execCfgCommit_inv h
      · exact ⟨rfl, hg⟩
      · rw [hv] at ht; cases ht
    · rw [(exec_keeps_machine h hi).1, hs] at ht; cases ht

end Sys2Proof.Machine
end

section
/-! The step of the block over any ROMs, the invariant (spec/10_state.md section 4), and the engines of a platform
(section 6). -/
namespace Sys2Proof.Machine

section StepWith
variable {run : Instr → State → Result} {P : State → Prop}
  (hrun : ∀ i s, P s → ∃ t, run i s = .next t ∧ P t)
  (hport : ∀ s t, SameBlock s t → P s → P t)

include hrun hport

theorem runWord_keeps (w : Word) {s : State} (h : P s) : ∃ t, runWord run w s = .next t ∧ P t := by
  unfold runWord
  split
  · exact hrun _ s h
  · exact ⟨_, rfl, hport s _ ⟨rfl, rfl, rfl, rfl⟩ h⟩

/-- A property of the block that every command keeps and that holds after reset is kept by every step, whatever the
host's input is; and the step answers. -/
theorem stepWith_keeps (hreset : ∀ s, P (resetBlock s)) {s : State} (h : P s) :
    ∃ t, stepWith run s = .next t ∧ P t := by
  have hmoved : ∀ rest n, P { s with pending := rest, freeCount := n } := fun _ _ =>
    hport s _ ⟨rfl, rfl, rfl, rfl⟩ h
  unfold stepWith
  split
  · exact ⟨s, rfl, h⟩
  · next input rest _ =>
    cases input with
    | command w => exact runWord_keeps hrun hport w (hmoved rest s.freeCount)
    | reset => exact ⟨_, rfl, hreset _⟩
    | resetInFlight w =>
      obtain ⟨u, hu, _⟩ := runWord_keeps hrun hport w (hmoved rest (s.freeCount + 1))
      simp only [accept, resetDuring, hu]
      split
      · exact ⟨_, rfl, hreset _⟩
      · exact ⟨_, rfl, hreset _⟩

end StepWith

/-- Settles O58: it needs `stg_plug`'s reset value and `cfg_valid = 0` alone. -/
theorem resetIsSafe : Obligations.ResetIsSafe := ⟨identityTable_involutive, fun h => nomatch h⟩

/-- The invariant speaks of the block alone. -/
theorem inv_of_sameBlock {s t : State} (hst : SameBlock s t) (h : s.Inv) : t.Inv := by
  obtain ⟨_, hv, ha, hg⟩ := hst
  simpa only [State.Inv, hv, ha, hg] using h

theorem resetBlock_inv (s : State) : (resetBlock s).Inv :=
  inv_of_sameBlock (s := State.reset) ⟨rfl, rfl, rfl, rfl⟩ resetIsSafe

/-- CFG_COMMIT over sound ROMs keeps the invariant, and answers. -/
theorem commit_keeps_inv {rom : Roms} (hrom : RomsSound rom) {s : State} (h : s.Inv) :
    ∃ t, commit rom s = .next t ∧ t.Inv := by
  obtain ⟨hplug, _⟩ := h
  by_cases hv : validate rom s.staging = .ok
  · exact ⟨_, commit_of_ok hv, hplug, fun _ => builtActive_good hrom ((validate_eq_ok rom _).1 hv) hplug _⟩
  · exact ⟨_, commit_of_ne hv, hplug, fun e => nomatch e⟩

/-- Every command over sound ROMs keeps the invariant, and answers. -/
theorem execOver_keeps_inv {rom : Roms} (hrom : RomsSound rom) (i : Instr) (s : State) (h : s.Inv) :
    ∃ t, execOver rom i s = .next t ∧ t.Inv := by
  by_cases hi : i = .cfgCommit
  · subst hi; exact commit_keeps_inv hrom h
  · obtain ⟨hplug, hgood⟩ := h
    obtain ⟨t, _, ht, _⟩ := exec_answers i s
    obtain ⟨hv, ha⟩ := exec_keeps_machine ht hi
    refine ⟨t, (execOver_of_ne hi rom s).trans ht, ?_, ?_⟩
    · rw [exec_staging ht]; exact nextStaging_plug_involutive i hplug
    · rw [hv, ha]; exact hgood

theorem stepOver_keeps_inv {rom : Roms} (hrom : RomsSound rom) {s : State} (h : s.Inv) :
    ∃ t, stepOver rom s = .next t ∧ t.Inv :=
  stepWith_keeps (execOver_keeps_inv hrom) (fun _ _ => inv_of_sameBlock) resetBlock_inv h

/-- The forward table of a named rotor spells out its ROM entry (42_rotor.md R134). -/
theorem i2l_builtFwd_named {rom : Roms} {r : StagedRotor} {e : RotorSpec} (hk : r.kind = .named)
    (he : rom.rotors[r.name.toNat]? = some e) (hw : IsLetterPermutation e.wiring) (i : Idx) :
    i2l (builtFwd rom r)[i].val = e.wiring[i] := by
  have hsource : rotorSource rom r = e := by simp [rotorSource, hk, romRotor, he]
  simp only [builtFwd, hsource, Fin.getElem_fin, getElem_wiringIndices]
  exact i2l_letterIndex (hw.1 i)

/-- Settles O28, from the invariant lemmas of `commit` and `stepOver` and the forward table of a named rotor. -/
theorem anySoundRomsKeepTheInvariant : Obligations.AnySoundRomsKeepTheInvariant := by
  refine ⟨fun rom s hrom h => ⟨commit_keeps_inv hrom h, stepOver_keeps_inv hrom h⟩, fun rom s k e hg hk he hw => ?_⟩
  refine ⟨_, commit_of_ok ((validate_eq_ok rom _).2 hg), rfl, fun i => ?_⟩
  rw [State.answered_active, builtActive_fwd]
  exact i2l_builtFwd_named hk he hw i

/-- Every step answers (60_exceptions.md R250). -/
theorem step_answers (s : State) : ∃ t, step s = .next t := by
  obtain ⟨t, ht, _⟩ := stepWith_keeps (run := exec) (P := fun _ => True)
    (fun i s _ => by obtain ⟨t, _, ht, _⟩ := exec_answers i s; exact ⟨t, ht, trivial⟩)
    (fun _ _ _ _ => trivial) (fun _ => trivial) (s := s) trivial
  exact ⟨t, ht⟩

/-- A run of one step more, where the first step answers `u`, is a run from `u`. -/
theorem coreRun_succ {M : Host.Core} {s u : M.State} (h : M.step s = .next u) (n : Nat) :
    M.run (n + 1) s = M.run n u := by
  simp only [Host.Core.run, h]

/-- An engine's own step moves it as `step` does. -/
theorem getElem?_stepEngine_self {j : Nat} {p : Platform} {s t : State} (hj : p[j]? = some s)
    (h : step s = .next t) : (stepEngine j p)[j]? = some t := by
  obtain ⟨hlt, _⟩ := List.getElem?_eq_some_iff.mp hj
  simp only [stepEngine, hj, h]
  exact List.getElem?_set_self hlt

/-- Another engine's step leaves an engine alone (10_state.md R38). -/
theorem getElem?_stepEngine_ne {j k : Nat} (h : k ≠ j) (p : Platform) : (stepEngine k p)[j]? = p[j]? := by
  unfold stepEngine
  split
  · rfl
  · split
    · exact List.getElem?_set_ne h
    · rfl
    · rfl

/-- Settles O55: an induction over the schedule. -/
theorem enginesNeverAffectEachOther : Obligations.EnginesNeverAffectEachOther := by
  intro schedule
  induction schedule with
  | nil => exact fun p j s hj => ⟨s, rfl, hj⟩
  | cons k schedule ih =>
    intro p j s hj
    by_cases hk : k = j
    · subst hk
      obtain ⟨u, hu⟩ := step_answers s
      obtain ⟨t, hrun, ht⟩ := ih _ k u (getElem?_stepEngine_self hj hu)
      refine ⟨t, ?_, ht⟩
      rw [List.count_cons_self]
      exact (coreRun_succ (M := Sys2Proof.core) hu _).trans hrun
    · obtain ⟨t, hrun, ht⟩ := ih _ j s ((getElem?_stepEngine_ne hk p).trans hj)
      refine ⟨t, ?_, ht⟩
      rwa [List.count_cons_of_ne hk]

end Sys2Proof.Machine
end

section
/-! Reset values, and the active tables while `cfg_valid` is 0 (spec/10_state.md section 7). -/
namespace Sys2Proof.Machine

/-- Settles O56, field by field. -/
theorem resetValues : Obligations.ResetValues := by
  refine ⟨rfl, fun k => ?_, rfl, fun k => ?_, rfl, rfl, fun i => ?_, fun i => ?_, rfl, fun i => ?_⟩
  all_goals simp [State.reset, Staging.cleared, StagedRotor.blank, blankWiring, identityTable]

/-- Two states alike but for active tables that cannot be observed, because `cfg_valid` is 0 (10_state.md R39). -/
def AlikeButHiddenTables (s s' : State) : Prop :=
  s' = s ∨ (s.cfgValid = false ∧ ∃ a : Active, s' = { s with active := a })

/-- One command answers such states with the same response, and leaves such states. CFG_COMMIT is the one that can make
the tables count, and it overwrites them whole. -/
theorem exec_alikeButHiddenTables (i : Instr) {s s' : State} (h : AlikeButHiddenTables s s') :
    ∃ t t' w, exec i s = .next t ∧ exec i s' = .next t' ∧ AlikeButHiddenTables t t'
      ∧ t.responses = s.responses ++ [w] := by
  obtain rfl | ⟨hv, a, rfl⟩ := h
  · obtain ⟨t, w, ht, hresp, _⟩ := exec_answers i s'
    exact ⟨t, t, w, ht, ht, .inl rfl, hresp⟩
  · cases hi : isStaging i with
    | true =>
      obtain ⟨st, hexec⟩ := exec_of_isStaging hi
      exact ⟨_, _, _, hexec _, hexec _, .inr ⟨hv, a, rfl⟩, rfl⟩
    | false =>
      cases i with
      | cfgCommit =>
        by_cases hg : validate standardRoms s.staging = .ok
        · have hbuilt := builtActive_forgets standardRoms_sound ((validate_eq_ok _ _).1 hg) a s.active
          refine ⟨_, _, _, commit_of_ok hg, commit_of_ok hg, .inl ?_, rfl⟩
          simp only [hbuilt, State.answered]
        · exact ⟨_, _, _, commit_of_ne hg, commit_of_ne hg, .inr ⟨rfl, a, rfl⟩, rfl⟩
      | encodeChar c =>
        exact ⟨_, _, _, execEncodeChar_of_invalid hv c, execEncodeChar_of_invalid (s := { s with active := a }) hv c,
          .inr ⟨hv, a, rfl⟩, rfl⟩
      | setPosition k c =>
        by_cases hk : k = 3#2
        · subst hk
          exact ⟨_, _, _, execSetPosition_slot3 c _, execSetPosition_slot3 c _, .inr ⟨hv, a, rfl⟩, rfl⟩
        · exact ⟨_, _, _, execSetPosition_of_invalid hk hv c,
            execSetPosition_of_invalid (s := { s with active := a }) hk hv c, .inr ⟨hv, a, rfl⟩, rfl⟩
      | readState => exact ⟨_, _, _, execReadState_eq _, execReadState_eq _, .inr ⟨hv, a, rfl⟩, rfl⟩
      | cfgClear | cfgRotor | cfgWire | cfgRotorRaw | cfgReflector | cfgReflectorRaw | cfgPlug => cases hi

theorem execAll_alikeButHiddenTables (is : List Instr) {s s' : State} (h : AlikeButHiddenTables s s') :
    ∃ t t' outs, execAll is s = .next t ∧ execAll is s' = .next t' ∧ AlikeButHiddenTables t t'
      ∧ t.responses = s.responses ++ outs := by
  induction is generalizing s s' with
  | nil => exact ⟨s, s', [], rfl, rfl, h, by simp⟩
  | cons i is ih =>
    obtain ⟨u, u', w, hu, hu', halike, hw⟩ := exec_alikeButHiddenTables i h
    obtain ⟨t, t', outs, ht, ht', halike', houts⟩ := ih halike
    refine ⟨t, t', w :: outs, (execAll_cons hu is).trans ht, (execAll_cons hu' is).trans ht', halike', ?_⟩
    simp [houts, hw]

/-- Settles O52: the commands keep the two states alike but for hidden tables. -/
theorem unconfiguredTablesAreUnobservable : Obligations.UnconfiguredTablesAreUnobservable := by
  intro is s a hv
  obtain ⟨t, t', outs, ht, ht', halike, houts⟩ := execAll_alikeButHiddenTables is (.inr ⟨hv, a, rfl⟩)
  refine ⟨t, t', outs, ht, ht', houts, ?_⟩
  obtain rfl | ⟨htv, b, rfl⟩ := halike
  · exact ⟨houts, rfl, rfl, rfl, fun _ => rfl⟩
  · exact ⟨houts, rfl, rfl, rfl, fun hon => by rw [htv] at hon; cases hon⟩

end Sys2Proof.Machine
end

section
/-! The round trip of a command through its word (spec/30_encoding.md R70 to R78), the byte-wide transport
(spec/20_memory.md R53), and one step of the block on a word that decodes. -/
namespace Sys2Proof

/-- The opcode of a command (30_encoding.md R74); `opcode_encode` ties it to the encoder. -/
def opcodeOf : Instr → BitVec 4
  | .cfgClear => 0x1#4
  | .cfgRotor _ _ _ => 0x2#4
  | .cfgWire _ _ => 0x3#4
  | .cfgRotorRaw _ _ _ => 0x4#4
  | .cfgReflector _ => 0x5#4
  | .cfgReflectorRaw => 0x6#4
  | .cfgPlug _ _ => 0x7#4
  | .cfgCommit => 0x8#4
  | .encodeChar _ => 0x9#4
  | .setPosition _ _ => 0xA#4
  | .readState => 0xB#4

theorem opcode_encode (i : Instr) : opcode (encode i) = opcodeOf i := by
  cases i with
  | cfgClear | cfgReflectorRaw | cfgCommit | readState => rfl
  | cfgRotor | cfgWire | cfgRotorRaw | cfgReflector | cfgPlug | encodeChar | setPosition =>
    simp (disch := decide) only [encode, opcodeOf, BitVec.extractLsb'_append_eq_of_le, Nat.reduceSub,
      BitVec.extractLsb'_eq_self]

/-- A row whose mask covers the opcode selects no word of another opcode (30_encoding.md R74). -/
theorem selects_eq_false {w : Word} {op : BitVec 4} (hop : opcode w = op) {mask value : Word}
    (hmask : opcode mask = 0xF#4) (hne : op ≠ opcode value) : selects mask value w = false := by
  refine beq_eq_false_iff_ne.mpr fun hsel => hne ?_
  calc op = opcode w &&& opcode mask := by rw [hop, hmask]; exact BitVec.and_allOnes.symm
    _ = opcode (w &&& mask) := BitVec.extractLsb'_and.symm
    _ = opcode value := by rw [hsel]

/-- A command's word selects the command's own row (30_encoding.md R74). -/
theorem selects_encode (i : Instr) :
    selects (Laws.EncodeRow.row i).1 (Laws.EncodeRow.row i).2 (encode i) = true := by
  refine beq_iff_eq.mpr ?_
  cases i with
  | cfgClear => exact Laws.EncodeRow.cfgClear
  | cfgRotor name ring pos => exact Laws.EncodeRow.cfgRotor name ring pos
  | cfgWire index sym => exact Laws.EncodeRow.cfgWire index sym
  | cfgRotorRaw ring pos notch => exact Laws.EncodeRow.cfgRotorRaw ring pos notch
  | cfgReflector name => exact Laws.EncodeRow.cfgReflector name
  | cfgReflectorRaw => exact Laws.EncodeRow.cfgReflectorRaw
  | cfgPlug a b => exact Laws.EncodeRow.cfgPlug a b
  | cfgCommit => exact Laws.EncodeRow.cfgCommit
  | encodeChar c => exact Laws.EncodeRow.encodeChar c
  | setPosition slot sym => exact Laws.EncodeRow.setPosition slot sym
  | readState => exact Laws.EncodeRow.readState

/-- The decoder passes over the rows of other opcodes, takes the command's own row (30_encoding.md R74), and there
reads back each operand field (R71, R73). -/
theorem decode_encode {i : Instr} (h : WellFormed i = true) : decode (encode i) = .ok i := by
  have hop := opcode_encode i
  have hrow := selects_encode i
  cases i
  all_goals
    dsimp only [opcodeOf, Laws.EncodeRow.row] at hop hrow
    simp (disch := decide) only [decode, selects_eq_false hop, hrow, Bool.false_eq_true, ↓reduceIte]
  all_goals
    simp (disch := decide) only [encode, BitVec.extractLsb'_append_eq_of_le, BitVec.extractLsb'_append_eq_of_add_le,
      Nat.reduceSub, BitVec.extractLsb'_eq_self]
  case cfgWire => exact if_pos (of_decide_eq_true h)
  case setPosition => exact if_neg (of_decide_eq_true h)

/-- The four bytes of a word, from the top one down, are the word. -/
theorem field_append_bytes (w : Word) : field w 24 8 ++ field w 16 8 ++ field w 8 8 ++ field w 0 8 = w := by
  rw [field, field, field, field, BitVec.extractLsb'_append_extractLsb'_eq_extractLsb' (by rfl),
    BitVec.extractLsb'_append_extractLsb'_eq_extractLsb' (by rfl),
    BitVec.extractLsb'_append_extractLsb'_eq_extractLsb' (by rfl), BitVec.extractLsb'_eq_self]

/-- A word that decodes crosses a byte-wide transport in either order, and the bytes behind it stay (20_memory.md
R53). -/
theorem decodeBytes_bytesOfWord {w : Word} {i : Instr} (h : decode w = .ok i) (o : ByteOrder) (rest : List Code) :
    decodeBytes o (bytesOfWord o w ++ rest) = .ok (i, rest) := by
  cases o with
  | leastFirst | mostFirst =>
    simp only [bytesOfWord, List.cons_append, List.nil_append, decodeBytes, wordOfBytes, field_append_bytes, h]

/-- Settles O6: the four bytes make the word again, and the word decodes. -/
theorem byteTransportCarriesCommands : Obligations.ByteTransportCarriesCommands :=
  fun o _ rest h => decodeBytes_bytesOfWord (decode_encode h) o rest

end Sys2Proof
end

section
/-! The step of the block on the words of commands (spec/20_memory.md section 3), and what a command's effect depends
on. -/
namespace Sys2Proof.Machine

/-- Settles O5: the oldest word is accepted, decoded, and run. -/
theorem stepRunsTheDecodedCommand : Obligations.StepRunsTheDecodedCommand := by
  intro s w rest i hp hd
  simp only [step, stepWith, hp, accept, runWord, hd]

/-! What a command's effect depends on: the block alone; and where it neither stages nor commits, the machine alone,
that is positions, `cfg_valid` and the active configuration. -/

/-- The stepper reads the notches and the positions alone (42_rotor.md R138, 44_machine.md R198). -/
theorem stepRotors_machineUnmoved {s s' : State} (h : MachineUnmoved s s') :
    MachineUnmoved (stepRotors s) (stepRotors s') := by
  obtain ⟨hpos, hv, ha⟩ := h
  have hnotch (k : Slot) : atNotch s' k = atNotch s k := by simp only [atNotch, hpos, ha]
  refine ⟨?_, by simpa only [stepRotors_cfgValid], by simpa only [stepRotors_active]⟩
  simp only [stepRotors_pos, hnotch, hpos]

theorem answered_stepRotors (s : State) (st : Status) (data : BitVec 16) :
    Answered s ((stepRotors s).answered st data) (responseWord st data) :=
  ⟨congrArg (· ++ _) (stepRotors_responses s), stepRotors_pending s, stepRotors_freeCount s⟩

/-- The keypress permutation reads the active tables and the positions alone (44_machine.md R203). -/
theorem keypress_machineUnmoved {s s' : State} (h : MachineUnmoved s s') (x : Idx) : keypress s' x = keypress s x := by
  obtain ⟨hpos, _, ha⟩ := h
  simp only [keypress, swap, reflect, rotorForwardPass, rotorBackwardPass, hpos, ha]

/-- A command delivers one and the same response in both states, and leaves the same machine. -/
def AnswersAlike (i : Instr) (s s' : State) : Prop :=
  ∃ t t' w, exec i s = .next t ∧ exec i s' = .next t' ∧ MachineUnmoved t t' ∧ Answered s t w ∧ Answered s' t' w

theorem answersAlike_of_answered {i : Instr} {s s' : State} {st : Status} {data : BitVec 16} (h : MachineUnmoved s s')
    (e : exec i s = .next (s.answered st data)) (e' : exec i s' = .next (s'.answered st data)) : AnswersAlike i s s' :=
  ⟨_, _, _, e, e', h, ⟨rfl, rfl, rfl⟩, rfl, rfl, rfl⟩

/-- A keypress steps to the same positions, and its letter is read there (44_machine.md R203). -/
theorem encodeChar_answersAlike (c : Code) {s s' : State} (h : MachineUnmoved s s') :
    AnswersAlike (.encodeChar c) s s' := by
  have ⟨_, hv, _⟩ := h
  cases hon : s.cfgValid with
  | false =>
    exact answersAlike_of_answered h (execEncodeChar_of_invalid hon c) (execEncodeChar_of_invalid (hv.trans hon) c)
  | true =>
    cases hk : isKey c with
    | false =>
      exact answersAlike_of_answered h (execEncodeChar_of_nonletter hon hk)
        (execEncodeChar_of_nonletter (hv.trans hon) hk)
    | true =>
      have hstep := stepRotors_machineUnmoved h
      have e' := execEncodeChar_of_key (hv.trans hon) hk
      rw [keypress_machineUnmoved hstep] at e'
      exact ⟨_, _, _, execEncodeChar_of_key hon hk, e', hstep, answered_stepRotors s .ok _,
        answered_stepRotors s' .ok _⟩

/-- SET_POSITION overwrites one of three positions that agree (44_machine.md R210). -/
theorem setPosition_answersAlike (k : BitVec 2) (c : Code) {s s' : State} (h : MachineUnmoved s s') :
    AnswersAlike (.setPosition k c) s s' := by
  have ⟨hpos, hv, ha⟩ := h
  by_cases hk : k = 3#2
  · subst hk
    exact answersAlike_of_answered h (execSetPosition_slot3 c s) (execSetPosition_slot3 c s')
  · cases hon : s.cfgValid with
    | false =>
      exact answersAlike_of_answered h (execSetPosition_of_invalid hk hon c)
        (execSetPosition_of_invalid hk (hv.trans hon) c)
    | true =>
      cases hl : isKey c with
      | false =>
        exact answersAlike_of_answered h (execSetPosition_of_nonletter hk hon hl)
          (execSetPosition_of_nonletter hk (hv.trans hon) hl)
      | true =>
        obtain ⟨hlt, _⟩ := slotOf_of_ne hk
        have e' := execSetPosition_of_letter hlt (hv.trans hon) hl
        rw [hpos] at e'
        exact ⟨_, _, _, execSetPosition_of_letter hlt hon hl, e', ⟨rfl, hv, ha⟩, ⟨rfl, rfl, rfl⟩, rfl, rfl, rfl⟩

/-- READ_STATE reports `cfg_valid` and the positions alone (44_machine.md R212). -/
theorem readState_answersAlike {s s' : State} (h : MachineUnmoved s s') : AnswersAlike .readState s s' := by
  have ⟨hpos, hv, _⟩ := h
  have hsummary : stateSummary s' = stateSummary s := by simp only [stateSummary, hpos, hv]
  have e' := execReadState_eq s'
  rw [hsummary] at e'
  exact answersAlike_of_answered h (execReadState_eq s) e'

/-- A command that neither stages nor commits depends on the machine alone (20_memory.md R60). -/
theorem exec_answersAlike {i : Instr} (hi : isStaging i = false) (hc : i ≠ .cfgCommit) {s s' : State}
    (h : MachineUnmoved s s') : AnswersAlike i s s' := by
  cases i with
  | encodeChar c => exact encodeChar_answersAlike c h
  | setPosition k c => exact setPosition_answersAlike k c h
  | readState => exact readState_answersAlike h
  | cfgCommit => exact absurd rfl hc
  | cfgClear | cfgRotor | cfgWire | cfgRotorRaw | cfgReflector | cfgReflectorRaw | cfgPlug => cases hi

/-- Two states with the same block answer every command alike and keep the same block, whatever their ports hold
(44_machine.md R214). -/
theorem exec_sameBlock (i : Instr) {s s' : State} (h : SameBlock s s') :
    ∃ t t' w, exec i s = .next t ∧ exec i s' = .next t' ∧ SameBlock t t' ∧ Answered s t w ∧ Answered s' t' w := by
  obtain ⟨hpos, hv, ha, hg⟩ := h
  cases hi : isStaging i with
  | true =>
    obtain ⟨st, hexec⟩ := exec_of_isStaging hi
    exact ⟨_, _, _, hexec s, hexec s', ⟨hpos, hv, ha, congrArg (nextStaging i) hg⟩, ⟨rfl, rfl, rfl⟩, rfl, rfl, rfl⟩
  | false =>
    by_cases hc : i = .cfgCommit
    · subst hc
      by_cases hok : validate standardRoms s.staging = .ok
      · refine ⟨_, _, _, commit_of_ok hok, commit_of_ok (hg ▸ hok), ⟨?_, rfl, ?_, hg⟩, ⟨rfl, rfl, rfl⟩, rfl, rfl, rfl⟩
        · simp only [State.answered_pos, hg]
        · simp only [State.answered_active, hg, ha]
      · refine ⟨_, _, _, commit_of_ne hok, commit_of_ne (hg ▸ hok), ⟨hpos, rfl, ha, hg⟩, ⟨rfl, rfl, rfl⟩, ?_, rfl, rfl⟩
        simp only [State.answered_responses, hg]
    · obtain ⟨t, t', w, ht, ht', ⟨hpos', hv', ha'⟩, hanswer⟩ := exec_answersAlike hi hc ⟨hpos, hv, ha⟩
      have hg' : t'.staging = t.staging := by rw [exec_staging ht, exec_staging ht', hg]
      exact ⟨t, t', w, ht, ht', ⟨hpos', hv', ha', hg'⟩, hanswer⟩

/-- What else the host has presented changes no command's effect, and waits through it (20_memory.md R55). -/
theorem exec_withPending {i : Instr} {s t : State} (h : exec i s = .next t) (rest : List HostInput) :
    exec i { s with pending := rest } = .next { t with pending := rest } := by
  obtain ⟨u, t', w, hu, ht', ⟨hpos, hv, ha, hg⟩, ⟨hr, _, hf⟩, hr', hp', hf'⟩ :=
    exec_sameBlock i (s := s) (s' := { s with pending := rest }) ⟨rfl, rfl, rfl, rfl⟩
  cases hu.symm.trans h
  rw [ht']
  cases t'
  simp_all

/-- Settles O53: an induction over the commands; each step runs the oldest and leaves the others waiting. -/
theorem commandsTakeEffectInOrder : Obligations.CommandsTakeEffectInOrder := by
  intro is
  induction is with
  | nil =>
    intro s rest _ hp
    obtain rfl : s.pending = rest := hp
    exact ⟨s, rfl, rfl, rfl, rfl⟩
  | cons i is ih =>
    intro s rest hwf hp
    obtain ⟨hi, his⟩ := List.forall_mem_cons.mp hwf
    obtain ⟨u, w, hu, hresp, hpend, _⟩ :=
      exec_answers i { s with pending := (is.map fun j => HostInput.command (encode j)) ++ rest }
    have hstep : step s = .next u := (stepRunsTheDecodedCommand s _ _ i hp (decode_encode hi)).trans hu
    obtain ⟨t, hrun, hall, hwait, hlen⟩ := ih u rest his hpend
    refine ⟨t, (coreRun_succ (M := Sys2Proof.core) hstep _).trans hrun,
      (execAll_cons (exec_withPending hu rest) is).trans hall, hwait, ?_⟩
    simp only [hlen, hresp, List.length_append, List.length_cons, List.length_nil]
    omega

/-! Commands that leave the machine where it is. -/

/-- The staging commands and READ_STATE (20_memory.md R60, 44_machine.md R212). -/
def leavesMachine (i : Instr) : Bool := isStaging i || i == .readState

theorem exec_leavesMachine {i : Instr} (h : leavesMachine i = true) (s : State) :
    ∃ t w, exec i s = .next t ∧ MachineUnmoved s t ∧ t.responses = s.responses ++ [w] := by
  obtain hi | hi := Bool.or_eq_true_iff.mp h
  · obtain ⟨st, hexec⟩ := exec_of_isStaging hi
    exact ⟨_, _, hexec s, ⟨rfl, rfl, rfl⟩, rfl⟩
  · obtain rfl := eq_of_beq hi
    exact ⟨_, _, execReadState_eq s, ⟨rfl, rfl, rfl⟩, rfl⟩

/-- Between commits, the commands that leave the machine can be dropped: from the same machine the others bring about
the same machine and the same responses. -/
theorem execAll_filter_leavesMachine {is : List Instr} (hc : .cfgCommit ∉ is) {s s' : State} (h : MachineUnmoved s s') :
    ∃ t u outs, execAll is s = .next t ∧ execAll (is.filter fun i => !leavesMachine i) s' = .next u
      ∧ MachineUnmoved t u ∧ t.responses = s.responses ++ outs
      ∧ u.responses = s'.responses ++ ((is.zip outs).filter fun p => !leavesMachine p.1).map Prod.snd := by
  induction is generalizing s s' with
  | nil => exact ⟨s, s', [], rfl, rfl, h, by simp, by simp⟩
  | cons i is ih =>
    obtain ⟨hi, his⟩ := List.ne_and_not_mem_of_not_mem_cons hc
    cases hl : leavesMachine i with
    | true =>
      obtain ⟨v, w, hv, ⟨hpos, hon, ha⟩, hw⟩ := exec_leavesMachine hl s
      obtain ⟨hpos', hon', ha'⟩ := h
      obtain ⟨t, u, outs, ht, hu, hm, houts, hkept⟩ := ih his (s := v) (s' := s')
        ⟨hpos'.trans hpos.symm, hon'.trans hon.symm, ha'.trans ha.symm⟩
      refine ⟨t, u, w :: outs, (execAll_cons hv is).trans ht, ?_, hm, by simp [houts, hw], ?_⟩
      · rwa [List.filter_cons_of_neg (by simp [hl])]
      · simpa [hl] using hkept
    | false =>
      have hstg : isStaging i = false := (Bool.or_eq_false_iff.mp hl).1
      obtain ⟨v, v', w, hv, hv', hm, ⟨hw, _⟩, hw', _⟩ := exec_answersAlike hstg hi.symm h
      obtain ⟨t, u, outs, ht, hu, hm', houts, hkept⟩ := ih his hm
      refine ⟨t, u, w :: outs, (execAll_cons hv is).trans ht, ?_, hm', by simp [houts, hw], ?_⟩
      · rw [List.filter_cons_of_pos (by simp [hl])]
        exact (execAll_cons hv' _).trans hu
      · simp [hl, hkept, hw']

/-- Settles O50: no CFG_COMMIT is among the commands, so those that leave the machine can be dropped. -/
theorem stagingDoesNotReconfigure : Obligations.StagingDoesNotReconfigure := by
  intro is s h
  have hc : .cfgCommit ∉ is := fun hmem => by
    obtain hstg | hread | ⟨c, henc⟩ := h _ hmem
    · cases hstg
    · cases hread
    · cases henc
  obtain ⟨t, u, outs, ht, hu, ⟨hpos, hon, ha⟩, houts, hkept⟩ := execAll_filter_leavesMachine hc (s := s) ⟨rfl, rfl, rfl⟩
  exact ⟨t, u, outs, _, ht, hu, houts, hkept, hpos.symm, ha.symm, hon.symm, rfl⟩

end Sys2Proof.Machine
end

section
/-! Which words decode, and to what (spec/30_encoding.md R74 to R77): every word of a command's row decodes to that
command with the fields of the word or is out of range, and every other word is ILLEGAL. -/
namespace Sys2Proof
open Sys2Proof.Machine

/-- Settles O1, from `decode_encode`. -/
theorem decodeInvertsEncode : Obligations.DecodeInvertsEncode := fun _ h => decode_encode h

/-- Settles O4: nine closed facts, one per word. -/
theorem specWordsDecode : Obligations.SpecWordsDecode := by
  unfold Obligations.SpecWordsDecode
  decide

/-- A word belongs to a command's row of the opcode map (30_encoding.md R74); the command's operands do not matter. -/
abbrev InRowOf (i : Instr) (w : Word) : Prop :=
  selects (Laws.EncodeRow.row i).1 (Laws.EncodeRow.row i).2 w = true

/-- The command of `i`'s row with the operand fields that the word `w` has in their place (30_encoding.md R71, R73). -/
def withFieldsOf (w : Word) : Instr → Instr
  | .cfgClear => .cfgClear
  | .cfgRotor _ _ _ => .cfgRotor (field w 24 3) (field w 16 8) (field w 8 8)
  | .cfgWire _ _ => .cfgWire (field w 16 5) (field w 0 8)
  | .cfgRotorRaw _ _ _ => .cfgRotorRaw (field w 16 8) (field w 8 8) (field w 0 8)
  | .cfgReflector _ => .cfgReflector (field w 24 3)
  | .cfgReflectorRaw => .cfgReflectorRaw
  | .cfgPlug _ _ => .cfgPlug (field w 8 8) (field w 0 8)
  | .cfgCommit => .cfgCommit
  | .encodeChar _ => .encodeChar (field w 0 8)
  | .setPosition _ _ => .setPosition (field w 24 2) (field w 0 8)
  | .readState => .readState

/-- A field that the mask covers has the bits of the match. -/
theorem field_of_selects {mask value w : Word} (h : selects mask value w = true) {lo len : Nat}
    (hmask : field mask lo len = BitVec.allOnes len) : field w lo len = field value lo len :=
  calc field w lo len = field w lo len &&& field mask lo len := by rw [hmask, BitVec.and_allOnes]
    _ = field (w &&& mask) lo len := BitVec.extractLsb'_and.symm
    _ = field value lo len := by rw [eq_of_beq h]

theorem opcode_of_inRow {i : Instr} {w : Word} (h : InRowOf i w) : opcode w = opcodeOf i := by
  have hbits := field_of_selects h (lo := 28) (len := 4)
  cases i with
  | cfgClear | cfgRotor | cfgWire | cfgRotorRaw | cfgReflector | cfgReflectorRaw | cfgPlug | cfgCommit | encodeChar
  | setPosition | readState =>
    dsimp only [Laws.EncodeRow.row] at hbits
    exact hbits rfl

/-- Two adjacent fields are one. -/
theorem field_append_field (w : Word) {hi lo n m : Nat} (h : hi = lo + m) :
    field w hi n ++ field w lo m = field w lo (n + m) :=
  BitVec.extractLsb'_append_extractLsb'_eq_extractLsb' h

/-- No bit of a row's word is lost: its operands are fields of it, and the fields between them are the row's own. -/
theorem encode_withFieldsOf {i : Instr} {w : Word} (h : InRowOf i w) : encode (withFieldsOf w i) = w := by
  have hrow (lo len) := field_of_selects h (lo := lo) (len := len)
  have hbytes := field_append_bytes w
  cases i
  all_goals dsimp only [Laws.EncodeRow.row] at hrow
  case cfgClear | cfgReflectorRaw | cfgCommit | readState =>
    exact (hrow 0 32 rfl).symm.trans BitVec.extractLsb'_eq_self
  case cfgRotor =>
    rw [← field_append_field w (hi := 27) (n := 5) (m := 3) rfl, hrow 27 5 rfl, hrow 0 8 rfl] at hbytes
    exact hbytes
  case cfgWire =>
    rw [field_append_field w (by rfl), ← field_append_field w (hi := 21) (n := 11) (m := 5) rfl, hrow 21 11 rfl,
      hrow 8 8 rfl] at hbytes
    exact hbytes
  case cfgRotorRaw =>
    rw [hrow 24 8 rfl] at hbytes
    exact hbytes
  case cfgReflector =>
    rw [← field_append_field w (hi := 27) (n := 5) (m := 3) rfl, hrow 27 5 rfl, hrow 16 8 rfl, hrow 8 8 rfl,
      hrow 0 8 rfl] at hbytes
    exact hbytes
  case cfgPlug =>
    rw [hrow 24 8 rfl, hrow 16 8 rfl] at hbytes
    exact hbytes
  case encodeChar =>
    rw [hrow 24 8 rfl, hrow 16 8 rfl, hrow 8 8 rfl] at hbytes
    exact hbytes
  case setPosition =>
    rw [← field_append_field w (hi := 26) (n := 6) (m := 2) rfl, hrow 26 6 rfl, hrow 16 8 rfl, hrow 8 8 rfl] at hbytes
    exact hbytes

/-- A word of CFG_WIRE's or SET_POSITION's row whose operand is out of range is refused (30_encoding.md R77). -/
theorem decode_of_inRow_of_not_wellFormed {i : Instr} {w : Word} (h : InRowOf i w)
    (hwf : WellFormed (withFieldsOf w i) = false) : ∃ e, decode w = .error e := by
  have hop := opcode_of_inRow h
  cases i with
  | cfgWire =>
    dsimp only [opcodeOf, InRowOf, Laws.EncodeRow.row] at hop h
    simp (disch := decide) only [decode, selects_eq_false hop, h, Bool.false_eq_true, ↓reduceIte]
    exact ⟨_, if_neg (of_decide_eq_false hwf)⟩
  | setPosition =>
    dsimp only [opcodeOf, InRowOf, Laws.EncodeRow.row] at hop h
    simp (disch := decide) only [decode, selects_eq_false hop, h, Bool.false_eq_true, ↓reduceIte]
    exact ⟨_, if_pos (not_not.mp (of_decide_eq_false hwf))⟩
  | cfgClear | cfgRotor | cfgRotorRaw | cfgReflector | cfgReflectorRaw | cfgPlug | cfgCommit | encodeChar
  | readState => cases hwf

/-- A word of no row is refused (30_encoding.md R76). -/
theorem decode_of_not_inRow {w : Word} (h : ∀ i, ¬ InRowOf i w) : ∃ e, decode w = .error e := by
  have hrow (i) : selects (Laws.EncodeRow.row i).1 (Laws.EncodeRow.row i).2 w = false := Bool.eq_false_iff.mpr (h i)
  have h1 := hrow .cfgClear
  have h2 := hrow (.cfgRotor 0 0 0)
  have h3 := hrow (.cfgWire 0 0)
  have h4 := hrow (.cfgRotorRaw 0 0 0)
  have h5 := hrow (.cfgReflector 0)
  have h6 := hrow .cfgReflectorRaw
  have h7 := hrow (.cfgPlug 0 0)
  have h8 := hrow .cfgCommit
  have h9 := hrow (.encodeChar 0)
  have h10 := hrow (.setPosition 0 0)
  have h11 := hrow .readState
  dsimp only [Laws.EncodeRow.row] at h1 h2 h3 h4 h5 h6 h7 h8 h9 h10 h11
  simp only [decode, h1, h2, h3, h4, h5, h6, h7, h8, h9, h10, h11, Bool.false_eq_true, ↓reduceIte]
  split
  · exact ⟨_, rfl⟩
  · exact ⟨_, rfl⟩

/-- Two words are equal when their opcodes and the 28 bits below are. -/
theorem word_ext_iff {v w : Word} : v = w ↔ opcode v = opcode w ∧ field v 0 28 = field w 0 28 := by
  have hsplit (u : Word) : opcode u ++ field u 0 28 = u :=
    (field_append_field u (by rfl)).trans BitVec.extractLsb'_eq_self
  refine ⟨fun h => h ▸ ⟨rfl, rfl⟩, fun ⟨hop, hlow⟩ => ?_⟩
  rw [← hsplit v, ← hsplit w, hop, hlow]

/-- A row's mask covers the opcode and the reserved bits of the format, and its match is the opcode and zeros
(30_encoding.md R74, R75). -/
theorem row_fields (i : Instr) :
    opcode (Laws.EncodeRow.row i).1 = BitVec.allOnes 4
      ∧ field (Laws.EncodeRow.row i).1 0 28 = field (reservedBits (opcodeOf i).toNat) 0 28
      ∧ opcode (reservedBits (opcodeOf i).toNat) = 0#4
      ∧ opcode (Laws.EncodeRow.row i).2 = opcodeOf i
      ∧ field (Laws.EncodeRow.row i).2 0 28 = 0#28 := by
  cases i with
  | cfgClear | cfgRotor | cfgWire | cfgRotorRaw | cfgReflector | cfgReflectorRaw | cfgPlug | cfgCommit | encodeChar
  | setPosition | readState =>
    dsimp only [Laws.EncodeRow.row, opcodeOf]
    decide

/-- The words of a row have its opcode and no reserved bit of its format set (30_encoding.md R74, R75). -/
theorem inRow_iff (i : Instr) (w : Word) :
    InRowOf i w ↔ opcode w = opcodeOf i ∧ w &&& reservedBits (opcodeOf i).toNat = 0#32 := by
  obtain ⟨hmask, hres, hresop, hvalueop, hvalue⟩ := row_fields i
  have hand (v : Word) (lo len) : field (w &&& v) lo len = field w lo len &&& field v lo len := BitVec.extractLsb'_and
  have hzero (lo len) : field 0#32 lo len = 0#len := BitVec.extractLsb'_zero
  rw [InRowOf, selects, beq_iff_eq, word_ext_iff, word_ext_iff (w := 0#32)]
  simp only [hand, hzero, hmask, hres, hresop, hvalueop, hvalue, BitVec.and_allOnes, BitVec.and_zero, true_and]

/-- Every opcode from 0x1 to 0xB has its row (30_encoding.md R74). -/
theorem exists_opcodeOf : ∀ op : BitVec 4, 1 ≤ op.toNat → op.toNat ≤ 11 →
    ∃ i ∈ [.cfgClear, .cfgRotor 0 0 0, .cfgWire 0 0, .cfgRotorRaw 0 0 0, .cfgReflector 0, .cfgReflectorRaw,
      .cfgPlug 0 0, .cfgCommit, .encodeChar 0, .setPosition 0 0, .readState], opcodeOf i = op := by
  decide

/-- A word of no row has an undefined opcode or a reserved bit set (30_encoding.md R76). -/
theorem illegalWord_of_not_inRow {w : Word} (h : ∀ i, ¬ InRowOf i w) : IllegalWord w := by
  by_cases hop : 1 ≤ (opcode w).toNat ∧ (opcode w).toNat ≤ 11
  · obtain ⟨i, _, hi⟩ := exists_opcodeOf _ hop.1 hop.2
    exact .inr (.inl fun hres => h i ((inRow_iff i w).mpr ⟨hi.symm, hi ▸ hres⟩))
  · exact .inl (by omega)

/-- A word of a row is ILLEGAL exactly when its operand is out of range (30_encoding.md R76, R77). -/
theorem illegalWord_iff_of_inRow {i : Instr} {w : Word} (h : InRowOf i w) :
    IllegalWord w ↔ WellFormed (withFieldsOf w i) = false := by
  obtain ⟨hop, hres⟩ := (inRow_iff i w).mp h
  simp only [IllegalWord, hop, hres, ne_eq, not_true_eq_false, false_or]
  cases i with
  | cfgWire =>
    simp [opcodeOf, withFieldsOf, WellFormed]
    omega
  | cfgClear | cfgRotor | cfgRotorRaw | cfgReflector | cfgReflectorRaw | cfgPlug | cfgCommit | encodeChar
  | setPosition | readState => simp [opcodeOf, withFieldsOf, WellFormed]

/-- The inversion lemma of the decoder: a word is the word of one well-formed command, or it is refused as ILLEGAL. -/
theorem decode_cases (w : Word) :
    (∃ i, decode w = .ok i ∧ WellFormed i = true ∧ encode i = w ∧ ¬ IllegalWord w)
      ∨ (∃ e, decode w = .error e) ∧ IllegalWord w := by
  by_cases h : ∃ i, InRowOf i w
  · obtain ⟨i, hrow⟩ := h
    have henc := encode_withFieldsOf hrow
    cases hwf : WellFormed (withFieldsOf w i) with
    | true =>
      have hdec := decode_encode hwf
      rw [henc] at hdec
      exact .inl ⟨_, hdec, hwf, henc, by rw [illegalWord_iff_of_inRow hrow, hwf]; exact Bool.true_eq_false_eq_False⟩
    | false => exact .inr ⟨decode_of_inRow_of_not_wellFormed hrow hwf, (illegalWord_iff_of_inRow hrow).mpr hwf⟩
  · have hrow := not_exists.mp h
    exact .inr ⟨decode_of_not_inRow hrow, illegalWord_of_not_inRow hrow⟩

/-- Settles O2, from the decoder's inversion lemma. -/
theorem legalWordsAreEncodings : Obligations.LegalWordsAreEncodings := by
  intro w i hd
  obtain ⟨j, hj, hwf, henc, _⟩ | ⟨⟨e, he⟩, _⟩ := decode_cases w
  · cases hj.symm.trans hd
    exact ⟨hwf, henc⟩
  · cases he.symm.trans hd

/-- Settles O3: the decoder refuses exactly the ILLEGAL words, and the step of a refused word raises ILLEGAL_COMMAND. -/
theorem illegalWordsChangeNothing : Obligations.IllegalWordsChangeNothing := by
  have hrefused (w : Word) : (∃ e, decode w = .error e) ↔ IllegalWord w := by
    obtain ⟨i, hi, _, _, hlegal⟩ | ⟨he, hill⟩ := decode_cases w
    · exact iff_of_false (fun ⟨e, he⟩ => nomatch hi.symm.trans he) hlegal
    · exact iff_of_true he hill
  refine ⟨hrefused, fun w s rest hill hp => ?_⟩
  obtain ⟨e, he⟩ := (hrefused w).mpr hill
  simp only [step, stepWith, hp, accept, runWord, he]
  rfl

end Sys2Proof
end

section
/-! The fields of a response word (spec/30_encoding.md R72), and what each command may put in them. -/
namespace Sys2Proof.Machine

@[simp] theorem responseStatus_responseWord (st : Status) (data : BitVec 16) :
    responseStatus (responseWord st data) = st.code := by
  simp (disch := decide) only [responseStatus, responseWord, BitVec.extractLsb'_append_eq_of_le, Nat.reduceSub,
    BitVec.extractLsb'_eq_self]

@[simp] theorem responseData_responseWord (st : Status) (data : BitVec 16) :
    responseData (responseWord st data) = data := by
  simp (disch := decide) only [responseData, responseWord, BitVec.extractLsb'_append_eq_of_add_le,
    BitVec.extractLsb'_eq_self]

theorem field_responseWord_unused (st : Status) (data : BitVec 16) : field (responseWord st data) 16 8 = 0#8 := by
  simp (disch := decide) only [responseWord, BitVec.extractLsb'_append_eq_of_le,
    BitVec.extractLsb'_append_eq_of_add_le, Nat.reduceSub, BitVec.extractLsb'_eq_self]

theorem zext16_eq_append (c : Code) : zext16 c = 0#8 ++ c := BitVec.setWidth_eq_append (by decide)

@[simp] theorem responseCode_zext16 (st : Status) (c : Code) : responseCode (responseWord st (zext16 c)) = c := by
  simp (disch := decide) only [responseCode, responseWord, zext16_eq_append, BitVec.extractLsb'_append_eq_of_add_le,
    BitVec.extractLsb'_eq_self]

theorem field_zext16_upper (st : Status) (c : Code) : field (responseWord st (zext16 c)) 8 8 = 0#8 := by
  simp (disch := decide) only [responseWord, zext16_eq_append, BitVec.extractLsb'_append_eq_of_le,
    BitVec.extractLsb'_append_eq_of_add_le, Nat.reduceSub, BitVec.extractLsb'_eq_self]

theorem Status.code_le (st : Status) : st.code.toNat ≤ 9 := by
  cases st <;> decide

/-- The format of the response to a command word with the given opcode (30_encoding.md R72; 60_exceptions.md R251). -/
def ResponseFormat (op : BitVec 4) (r : Word) : Prop :=
  field r 16 8 = 0#8
    ∧ (responseStatus r).toNat ≤ 9
    ∧ (responseStatus r ≠ 0#8 → responseData r = 0#16)
    ∧ (responseData r ≠ 0#16 → op = 0x9#4 ∨ op = 0xB#4)
    ∧ (op = 0x9#4 → field r 8 8 = 0#8)

/-- Without data, every status is a response to every word. -/
theorem responseFormat_of_no_data (op : BitVec 4) (st : Status) : ResponseFormat op (responseWord st 0#16) := by
  refine ⟨field_responseWord_unused st _, ?_, fun _ => responseData_responseWord st _, ?_, fun _ => ?_⟩
  · simpa using st.code_le
  · simp
  · exact field_zext16_upper st 0#8

/-- The response to an ENCODE_CHAR that is OK carries a code (44_machine.md R205). -/
theorem responseFormat_encodeChar (c : Code) : ResponseFormat 0x9#4 (responseWord .ok (zext16 c)) := by
  refine ⟨field_responseWord_unused .ok _, ?_, ?_, fun _ => .inl rfl, fun _ => field_zext16_upper .ok c⟩
  · simp [Status.code]
  · simp [Status.code]

/-- The response to READ_STATE is OK and carries 16 bits (44_machine.md R212). -/
theorem responseFormat_readState (data : BitVec 16) : ResponseFormat 0xB#4 (responseWord .ok data) := by
  refine ⟨field_responseWord_unused .ok _, ?_, ?_, fun _ => .inr rfl, fun h => nomatch h⟩
  · simp [Status.code]
  · simp [Status.code]

/-- No outcome of SET_POSITION carries data (44_machine.md R210). -/
theorem setPosition_answers (k : BitVec 2) (c : Code) (s : State) :
    ∃ t st, exec (.setPosition k c) s = .next t ∧ Answered s t (responseWord st 0#16) := by
  by_cases hk : k = 3#2
  · subst hk
    exact ⟨_, _, execSetPosition_slot3 c s, rfl, rfl, rfl⟩
  · cases hv : s.cfgValid with
    | false => exact ⟨_, _, execSetPosition_of_invalid hk hv c, rfl, rfl, rfl⟩
    | true =>
      cases hc : isKey c with
      | false => exact ⟨_, _, execSetPosition_of_nonletter hk hv hc, rfl, rfl, rfl⟩
      | true =>
        obtain ⟨hlt, _⟩ := slotOf_of_ne hk
        exact ⟨_, _, execSetPosition_of_letter hlt hv hc, rfl, rfl, rfl⟩

/-- Every command answers with one response of the format of its opcode. -/
theorem exec_responseFormat (i : Instr) (s : State) :
    ∃ t r, exec i s = .next t ∧ Answered s t r ∧ ResponseFormat (opcodeOf i) r := by
  have hno := responseFormat_of_no_data (opcodeOf i)
  cases hi : isStaging i with
  | true =>
    obtain ⟨st, hexec⟩ := exec_of_isStaging hi
    exact ⟨_, _, hexec s, ⟨rfl, rfl, rfl⟩, hno st⟩
  | false =>
    cases i with
    | cfgCommit =>
      by_cases hg : validate standardRoms s.staging = .ok
      · exact ⟨_, _, commit_of_ok hg, ⟨rfl, rfl, rfl⟩, hno _⟩
      · exact ⟨_, _, commit_of_ne hg, ⟨rfl, rfl, rfl⟩, hno _⟩
    | encodeChar c =>
      cases hv : s.cfgValid with
      | false => exact ⟨_, _, execEncodeChar_of_invalid hv c, ⟨rfl, rfl, rfl⟩, hno _⟩
      | true =>
        cases hc : isKey c with
        | false => exact ⟨_, _, execEncodeChar_of_nonletter hv hc, ⟨rfl, rfl, rfl⟩, responseFormat_encodeChar c⟩
        | true => exact ⟨_, _, execEncodeChar_of_key hv hc, answered_stepRotors s _ _, responseFormat_encodeChar _⟩
    | setPosition k c =>
      obtain ⟨t, st, ht, hanswer⟩ := setPosition_answers k c s
      exact ⟨t, _, ht, hanswer, hno st⟩
    | readState => exact ⟨_, _, execReadState_eq s, ⟨rfl, rfl, rfl⟩, responseFormat_readState _⟩
    | cfgClear | cfgRotor | cfgWire | cfgRotorRaw | cfgReflector | cfgReflectorRaw | cfgPlug => cases hi

/-- Settles O47: a word that decodes is a command's, which answers in the format of its opcode, and any other word
answers ILLEGAL_COMMAND. -/
theorem oneResponsePerCommand : Obligations.OneResponsePerCommand := by
  intro s w rest hp
  obtain ⟨i, hd, hwf, rfl, _⟩ | ⟨_, hill⟩ := decode_cases w
  · obtain ⟨t, r, ht, ⟨hr, hpend, _⟩, hformat⟩ := exec_responseFormat i { s with pending := rest }
    rw [← opcode_encode] at hformat
    exact ⟨t, r, (stepRunsTheDecodedCommand s _ rest i hp hd).trans ht, hr, hpend, hformat⟩
  · exact ⟨_, responseWord .illegalCommand 0#16, illegalWordsChangeNothing.2 w s rest hill hp, rfl, rfl,
      responseFormat_of_no_data _ _⟩

end Sys2Proof.Machine
end

section
/-! The pseudo-commands that stage: LOAD_WIRING, the pair-string form of CFG_PLUG, and CONFIGURE (spec/30_encoding.md
R80, R81, R83). -/
namespace Sys2Proof.Machine

theorem execAll_append {is : List Instr} {s t : State} (h : execAll is s = .next t) (js : List Instr) :
    execAll (is ++ js) s = execAll js t := by
  induction is generalizing s with
  | nil => cases h; rfl
  | cons i is ih =>
    obtain ⟨u, _, hu, _⟩ := exec_answers i s
    rw [execAll_cons hu] at h
    rw [List.cons_append, execAll_cons hu, ih h]

/-- The staging area that commands leave one after another; `execAll_staging` ties it to execAll. -/
def stagingAfter (is : List Instr) (g : Staging) : Staging := is.foldl (fun g i => nextStaging i g) g

/-- Any commands run, each with one response, and leave the staging area that `stagingAfter` names. -/
theorem execAll_staging (is : List Instr) (s : State) :
    ∃ t, execAll is s = .next t ∧ t.staging = stagingAfter is s.staging
      ∧ t.responses.length = s.responses.length + is.length := by
  induction is generalizing s with
  | nil => exact ⟨s, rfl, rfl, rfl⟩
  | cons i is ih =>
    obtain ⟨u, w, hu, hw, _⟩ := exec_answers i s
    obtain ⟨t, ht, hstg, hlen⟩ := ih u
    refine ⟨t, (execAll_cons hu is).trans ht, ?_, ?_⟩
    · rw [hstg, exec_staging hu]; rfl
    · rw [hlen, hw, List.length_append, List.length_cons, List.length_cons, List.length_nil]
      omega

/-- Staging commands leave the machine that encodes alone (20_memory.md R60). -/
theorem execAll_machineUnmoved {is : List Instr} (h : ∀ i ∈ is, isStaging i = true) {s t : State}
    (ht : execAll is s = .next t) : MachineUnmoved s t := by
  induction is generalizing s with
  | nil => cases ht; exact ⟨rfl, rfl, rfl⟩
  | cons i is ih =>
    obtain ⟨hi, his⟩ := List.forall_mem_cons.mp h
    obtain ⟨st, hexec⟩ := exec_of_isStaging hi
    rw [execAll_cons (hexec s)] at ht
    obtain ⟨hpos, hv, ha⟩ := ih his ht
    exact ⟨hpos, hv, ha⟩

/-! LOAD_WIRING. -/

/-- The CFG_WIRE commands that write codes into consecutive entries of the buffer from entry `n` on. -/
def wireCommands (codes : List Code) (n : Nat) : List Instr :=
  (codes.zipIdx n).map fun p => .cfgWire (BitVec.ofNat 5 p.2) p.1

theorem loadWiring_eq (codes : List Code) :
    loadWiring codes = wireCommands (codes.take 26) 0 ++ if 26 < codes.length then [.cfgWire 0#5 0x00#8] else [] := rfl

theorem nextStaging_cfgWire {n : Nat} (h : n < 26) (c : Code) (g : Staging) :
    nextStaging (.cfgWire (BitVec.ofNat 5 n) c) g = { g with wbuf := g.wbuf.set n c h } := by
  have hn : (BitVec.ofNat 5 n).toNat = n := by simp; omega
  simp only [nextStaging, hn, h, ↓reduceDIte]

/-- CFG_WIRE commands write the buffer and nothing else: consecutive entries take the codes. -/
theorem stagingAfter_wireCommands {codes : List Code} {n : Nat} (h : n + codes.length ≤ 26) (g : Staging) :
    ∃ b : Wiring, stagingAfter (wireCommands codes n) g = { g with wbuf := b }
      ∧ ∀ i : Idx, b[i] = if i.val < n then g.wbuf[i] else (codes[i.val - n]?).getD g.wbuf[i] := by
  induction codes generalizing n g with
  | nil => exact ⟨g.wbuf, rfl, fun i => by simp⟩
  | cons c codes ih =>
    rw [List.length_cons] at h
    have hn : n < 26 := by omega
    obtain ⟨b, hb, hget⟩ := ih (n := n + 1) (by omega) { g with wbuf := g.wbuf.set n c hn }
    refine ⟨b, (congrArg (stagingAfter (wireCommands codes (n + 1))) (nextStaging_cfgWire hn c g)).trans hb,
      fun i => (hget i).trans ?_⟩
    obtain hlt | heq | hgt := lt_trichotomy i.val n
    · simp [hlt, hlt.ne', Nat.lt_succ_of_lt hlt]
    · simp [heq]
    · have hsub : i.val - n = i.val - (n + 1) + 1 := by omega
      rw [if_neg (by omega), if_neg (by omega), hsub, List.getElem?_cons_succ]
      simp [hgt.ne]

theorem loadWiring_isStaging (codes : List Code) : ∀ i ∈ loadWiring codes, isStaging i = true := by
  intro i hi
  obtain hi | hi := List.mem_append.mp hi
  · obtain ⟨p, _, rfl⟩ := List.mem_map.mp hi
    rfl
  · split at hi
    · rw [List.mem_singleton.mp hi]; rfl
    · cases hi

theorem stagingAfter_append (is js : List Instr) (g : Staging) :
    stagingAfter (is ++ js) g = stagingAfter js (stagingAfter is g) := List.foldl_append

/-- What LOAD_WIRING leaves in the buffer (30_encoding.md R83). -/
theorem stagingAfter_loadWiring (codes : List Code) (g : Staging) :
    ∃ b : Wiring, stagingAfter (loadWiring codes) g = { g with wbuf := b }
      ∧ ∀ i : Idx, b[i] = if 26 < codes.length ∧ i = 0 then 0x00#8 else (codes[i.val]?).getD g.wbuf[i] := by
  obtain ⟨b, hb, hget⟩ := stagingAfter_wireCommands (codes := codes.take 26) (n := 0) (by simp) g
  have htake (i : Idx) : (codes.take 26)[i.val]? = codes[i.val]? := List.getElem?_take_of_lt i.isLt
  rw [loadWiring_eq, stagingAfter_append, hb]
  by_cases hlong : 26 < codes.length
  · refine ⟨b.set 0 0x00#8, by rw [if_pos hlong]; exact nextStaging_cfgWire (n := 0) (by decide) _ _, fun i => ?_⟩
    by_cases hi : i = 0
    · simp [hi, hlong]
    · have hne : 0 ≠ i.val := fun h => hi (Fin.ext h.symm)
      simpa [hi, hne, htake] using hget i
  · refine ⟨b, by rw [if_neg hlong]; rfl, fun i => ?_⟩
    simpa [hlong, htake] using hget i

/-- Settles O20: the expansion stages only, and its CFG_WIRE commands fill the buffer. -/
theorem loadWiringFillsBuffer : Obligations.LoadWiringFillsBuffer := by
  intro codes s
  obtain ⟨t, ht, hstg, _⟩ := execAll_staging (loadWiring codes) s
  obtain ⟨b, hb, hget⟩ := stagingAfter_loadWiring codes s.staging
  refine ⟨t, ht, execAll_machineUnmoved (loadWiring_isStaging codes) ht, ?_, ?_⟩
  · rw [hstg, hb]
  · rw [hstg, hb]; exact hget

/-! Pair strings. -/

theorem trimCodes_eq (codes : List Code) :
    trimCodes codes = (codes.dropWhile isWhitespace).rdropWhile isWhitespace := rfl

/-- Whitespace around codes that neither begin nor end with it is what is trimmed. -/
theorem trimCodes_append {lead trail : List Code} {x y : Code} (hlead : ∀ c ∈ lead, isWhitespace c = true)
    (htrail : ∀ c ∈ trail, isWhitespace c = true) (hx : isWhitespace x = false) (hy : isWhitespace y = false) :
    trimCodes (lead ++ x :: y :: trail) = [x, y] := by
  have hback : (x :: y :: trail).reverse = trail.reverse ++ [y, x] := by simp
  rw [trimCodes, List.dropWhile_append_of_pos hlead, List.dropWhile_cons_of_neg (by simp [hx]), hback,
    List.dropWhile_append_of_pos (by simpa using htrail), List.dropWhile_cons_of_neg (by simp [hy])]
  rfl

/-- A string is what is trimmed from it around what is left, which neither begins nor ends with whitespace. -/
theorem eq_append_of_trimCodes {codes : List Code} {x y : Code} (h : trimCodes codes = [x, y]) :
    ∃ lead trail, codes = lead ++ x :: y :: trail ∧ (∀ c ∈ lead, isWhitespace c = true)
      ∧ (∀ c ∈ trail, isWhitespace c = true) ∧ isWhitespace x = false ∧ isWhitespace y = false := by
  rw [trimCodes_eq] at h
  have hfront := List.takeWhile_append_dropWhile (p := isWhitespace) (l := codes)
  have hback := List.rdropWhile_append_rtakeWhile (p := isWhitespace) (l := codes.dropWhile isWhitespace)
  have hlast := List.rdropWhile_last_not isWhitespace (codes.dropWhile isWhitespace) (by simp [h])
  have hx := List.head?_dropWhile_not isWhitespace codes
  rw [h] at hback
  refine ⟨codes.takeWhile isWhitespace, (codes.dropWhile isWhitespace).rtakeWhile isWhitespace, ?_,
    fun c => List.mem_takeWhile_imp, fun c => List.mem_rtakeWhile_imp, ?_, ?_⟩
  · exact hfront.symm.trans (congrArg (_ ++ ·) hback.symm)
  · rw [← hback] at hx; simpa using hx
  · simpa [h] using hlast

theorem plugString_of_trimCodes {codes : List Code} (h : ∀ x y, trimCodes codes ≠ [x, y]) :
    plugString codes = .cfgPlug 0x00#8 0x00#8 := by
  unfold plugString
  split
  · next heq => exact absurd heq (h _ _)
  · rfl

/-- Settles O21: `trimCodes` leaves two codes exactly on the strings of the first form. -/
theorem pairStringsAreTrimmed : Obligations.PairStringsAreTrimmed := by
  refine ⟨fun lead trail x y hlead htrail hx hy => ?_, fun codes s hno => ?_⟩
  · rw [plugString, trimCodes_append hlead htrail hx hy]
  · have hplug := plugString_of_trimCodes (codes := codes) fun x y h =>
      let ⟨lead, trail, hsplit⟩ := eq_append_of_trimCodes h
      hno ⟨lead, trail, x, y, hsplit⟩
    refine ⟨hplug, fun hok => ?_⟩
    rw [hplug]
    refine ⟨_, execCfgPlug_eq _ _ s, ?_⟩
    simp [addPair, hok, pairIsValid]

end Sys2Proof.Machine
end

section
/-! CONFIGURE (spec/30_encoding.md R80): which staging area its expansion leaves, and when that commits. -/
namespace Sys2Proof.Machine

/-! Pairs one after another (spec/41_plugboard.md R112, R113). -/

/-- The CFG_PLUG commands of a list of pairs (30_encoding.md R80). -/
def plugCommands (ps : List (Code × Code)) : List Instr := ps.map fun p => .cfgPlug p.1 p.2

theorem stagingAfter_plugCommands_cons (p : Code × Code) (ps : List (Code × Code)) (g : Staging) :
    stagingAfter (plugCommands (p :: ps)) g = stagingAfter (plugCommands ps) (addPair p.1 p.2 g) := rfl

/-- Pairs change the plugboard under construction and its error alone. -/
theorem stagingAfter_plugCommands_frame (ps : List (Code × Code)) (g : Staging) :
    (stagingAfter (plugCommands ps) g).count = g.count ∧ (stagingAfter (plugCommands ps) g).rot = g.rot
      ∧ (stagingAfter (plugCommands ps) g).reflKind = g.reflKind
      ∧ (stagingAfter (plugCommands ps) g).reflName = g.reflName := by
  induction ps generalizing g with
  | nil => exact ⟨rfl, rfl, rfl, rfl⟩
  | cons p ps ih => simpa [stagingAfter_plugCommands_cons] using ih (addPair p.1 p.2 g)

/-- Pairs after the first failure are dropped (10_state.md R24). -/
theorem stagingAfter_plugCommands_of_failed {g : Staging} (h : g.plugErr ≠ .none) (ps : List (Code × Code)) :
    stagingAfter (plugCommands ps) g = g := by
  induction ps with
  | nil => rfl
  | cons p ps ih => rw [stagingAfter_plugCommands_cons, addPair_of_failed h, ih]

/-- The pair is accepted over the map `plug`: two distinct letters, neither paired yet (41_plugboard.md R112). -/
def Accepted (plug : Table) (p : Code × Code) : Prop :=
  pairIsValid p.1 p.2 = true ∧ pairConflicts plug p.1 p.2 = false

theorem addPair_of_accepted {g : Staging} {p : Code × Code} (hok : g.plugErr = .none) (h : Accepted g.plug p) :
    addPair p.1 p.2 g =
      { g with plug := swapPair g.plug (letterIndex (upcase p.1)) (letterIndex (upcase p.2)) } := by
  obtain ⟨hvalid, hfree⟩ := h
  simp [addPair, hok, hvalid, hfree]

theorem addPair_plugErr_of_not_accepted {g : Staging} {p : Code × Code} (h : ¬ Accepted g.plug p) :
    (addPair p.1 p.2 g).plugErr ≠ .none := by
  unfold addPair
  split_ifs with hfail hinvalid hconflict
  · exact hfail
  · exact nofun
  · exact nofun
  · exact absurd ⟨Bool.not_eq_false _ ▸ hinvalid, Bool.eq_false_iff.mpr hconflict⟩ h

theorem pairIsValid_iff (a b : Code) :
    pairIsValid a b = true ↔ isLetter (upcase a) = true ∧ isLetter (upcase b) = true ∧ upcase a ≠ upcase b := by
  simp [pairIsValid, and_assoc]

theorem pairConflicts_eq_false_iff (plug : Table) (a b : Code) :
    pairConflicts plug a b = false ↔ plug[letterIndex (upcase a)] = letterIndex (upcase a)
      ∧ plug[letterIndex (upcase b)] = letterIndex (upcase b) := by
  simp [pairConflicts]

theorem letterIndex_ne_iff {u v : Code} (hu : isLetter u = true) (hv : isLetter v = true) :
    letterIndex u ≠ letterIndex v ↔ u ≠ v :=
  not_congr ⟨letterIndex_inj hu hv, congrArg letterIndex⟩

/-- After a swap of two different letters, the unpaired letters are the others that were unpaired before. -/
theorem swapPair_fixes_iff (t : Table) {a b : Idx} (hab : a ≠ b) (z : Idx) :
    (swapPair t a b)[z] = z ↔ (a ≠ z ∧ b ≠ z) ∧ t[z] = z := by
  rw [getElem_swapPair]
  split_ifs with hb ha
  · subst hb; simp [hab]
  · subst ha; simp [hab.symm]
  · simp [Ne.symm hb, Ne.symm ha]

/-- Over the map with an accepted pair in it, the pairs accepted are those accepted before that share no letter with
it. -/
theorem accepted_swapPair_iff {t : Table} {p : Code × Code} (hp : Accepted t p) (q : Code × Code) :
    Accepted (swapPair t (letterIndex (upcase p.1)) (letterIndex (upcase p.2))) q
      ↔ Accepted t q ∧ DisjointPairs p q := by
  obtain ⟨hp1, hp2, hne⟩ := (pairIsValid_iff p.1 p.2).mp hp.1
  have hab := (letterIndex_ne_iff hp1 hp2).mpr hne
  rw [Accepted, Accepted, and_assoc]
  refine and_congr_right fun hq => ?_
  obtain ⟨hq1, hq2, _⟩ := (pairIsValid_iff q.1 q.2).mp hq
  rw [pairConflicts_eq_false_iff, pairConflicts_eq_false_iff, swapPair_fixes_iff t hab, swapPair_fixes_iff t hab,
    letterIndex_ne_iff hp1 hq1, letterIndex_ne_iff hp2 hq1, letterIndex_ne_iff hp1 hq2, letterIndex_ne_iff hp2 hq2,
    DisjointPairs]
  tauto

/-- Pairs leave no error exactly when each is accepted and no two share a letter. -/
theorem stagingAfter_plugCommands_plugErr (ps : List (Code × Code)) {g : Staging} (hok : g.plugErr = .none) :
    (stagingAfter (plugCommands ps) g).plugErr = .none
      ↔ (∀ p ∈ ps, Accepted g.plug p) ∧ ps.Pairwise DisjointPairs := by
  induction ps generalizing g with
  | nil => simpa [stagingAfter, plugCommands] using hok
  | cons p ps ih =>
    rw [stagingAfter_plugCommands_cons, List.forall_mem_cons, List.pairwise_cons]
    by_cases hp : Accepted g.plug p
    · have hnext : (addPair p.1 p.2 g).plugErr = .none := by rw [addPair_of_accepted hok hp]; exact hok
      rw [ih hnext, addPair_of_accepted hok hp]
      simp only [accepted_swapPair_iff hp, forall_and]
      tauto
    · have hfail := addPair_plugErr_of_not_accepted hp
      rw [stagingAfter_plugCommands_of_failed hfail]
      exact iff_of_false hfail fun h => hp h.1.1

theorem accepted_identityTable_iff (p : Code × Code) :
    Accepted identityTable p
      ↔ isLetter (upcase p.1) = true ∧ isLetter (upcase p.2) = true ∧ upcase p.1 ≠ upcase p.2 := by
  rw [Accepted, pairIsValid_iff, and_iff_left]
  simp [pairConflicts, identityTable]

/-! The expansion of CONFIGURE before its CFG_COMMIT. -/

/-- The commands of CONFIGURE that follow its CFG_CLEAR and come before its CFG_COMMIT (30_encoding.md R80). -/
def configureStages (c : Configuration) : List Instr :=
  c.rotors.map (fun r => .cfgRotor r.name r.ring r.pos) ++ .cfgReflector c.refl :: plugCommands c.pairs

theorem configure_eq (c : Configuration) : configure c = (.cfgClear :: configureStages c) ++ [.cfgCommit] := by
  simp [configure, configureStages, plugCommands]

/-- CONFIGURE stages as many rotors as it is given, saturating at 4. -/
theorem stagingAfter_configure_count (c : Configuration) (s : State) :
    (stagingAfter (.cfgClear :: configureStages c) s.staging).count.val = min c.rotors.length 4 := by
  have hclear : .cfgClear ∉ configureStages c := by simp [configureStages, plugCommands]
  have hcount : (configureStages c).countP stagesRotor = c.rotors.length := by
    simp [configureStages, plugCommands, stagesRotor, List.countP_map, Function.comp_def]
  obtain ⟨t, ht, hmin⟩ := stagedRotorCountSaturates _ s hclear
  obtain ⟨u, hu, hstg, _⟩ := execAll_staging (.cfgClear :: configureStages c) s
  cases ht.symm.trans hu
  rw [← hstg, hmin, hcount]

/-- The staging area of three named rotors and a named reflector, before any pair. -/
def namedStaging (r0 r1 r2 : RotorChoice) (refl : BitVec 3) : Staging :=
  { Staging.cleared with
    count := 3
    rot := #v[namedRotor r0.name r0.ring r0.pos, namedRotor r1.name r1.ring r1.pos, namedRotor r2.name r2.ring r2.pos]
    reflKind := .named
    reflName := refl }

theorem stagingAfter_configure_three (r0 r1 r2 : RotorChoice) (refl : BitVec 3) (ps : List (Code × Code))
    (g : Staging) :
    stagingAfter (.cfgClear :: configureStages ⟨[r0, r1, r2], refl, ps⟩) g
      = stagingAfter (plugCommands ps) (namedStaging r0 r1 r2 refl) := rfl

theorem committable_namedStaging_iff (r0 r1 r2 : RotorChoice) (refl : BitVec 3) (ps : List (Code × Code)) :
    Committable (stagingAfter (plugCommands ps) (namedStaging r0 r1 r2 refl))
      ↔ ValidConfiguration ⟨[r0, r1, r2], refl, ps⟩ := by
  obtain ⟨hcount, hrot, hkind, hname⟩ := stagingAfter_plugCommands_frame ps (namedStaging r0 r1 r2 refl)
  have herr := stagingAfter_plugCommands_plugErr ps (g := namedStaging r0 r1 r2 refl) rfl
  have hplug : (namedStaging r0 r1 r2 refl).plug = identityTable := rfl
  simp only [Committable, ReflectorOk, hcount, hrot, hkind, hname, herr, hplug, accepted_identityTable_iff, forall_slot]
  simp [namedStaging, ValidConfiguration, RotorOk, RotorSourceOk, namedRotor]

/-- What CONFIGURE stages passes every check exactly when its arguments are valid (44_machine.md R192, R194). -/
theorem committable_configure_iff (c : Configuration) (s : State) :
    Committable (stagingAfter (.cfgClear :: configureStages c) s.staging) ↔ ValidConfiguration c := by
  have hcount := stagingAfter_configure_count c s
  by_cases hlen : c.rotors.length = 3
  · obtain ⟨rotors, refl, ps⟩ := c
    obtain ⟨r0, r1, r2, rfl⟩ := List.length_eq_three.mp hlen
    rw [stagingAfter_configure_three]
    exact committable_namedStaging_iff r0 r1 r2 refl ps
  · refine iff_of_false (fun h => hlen ?_) fun h => hlen h.1
    have := congrArg Fin.val h.1
    omega

/-- Settles O29: the CFG_COMMIT at the end succeeds exactly on what valid arguments stage. -/
theorem configureAcceptsExactlyValid : Obligations.ConfigureAcceptsExactlyValid := by
  intro c s
  obtain ⟨u, hu, hstg, _⟩ := execAll_staging (.cfgClear :: configureStages c) s
  obtain ⟨t, ht, _, hlen⟩ := execAll_staging (configure c) s
  obtain ⟨v, hv, hon⟩ := onlyCommitEnables.1 u
  have hcommit : execAll (configure c) s = .next v := by
    rw [configure_eq, execAll_append hu, execAll_cons hv]; rfl
  cases ht.symm.trans hcommit
  exact ⟨t, ht, by rw [hon, hstg, committable_configure_iff], hlen⟩

end Sys2Proof.Machine
end

section
/-! Encoding a text (spec/44_machine.md section 4): one output per code, and decryption after RESTART. -/
namespace Sys2Proof.Machine

/-! One output per code. -/

/-- Keypresses keep two states alike that hold the same machine. -/
theorem iterate_stepRotors_machineUnmoved (n : Nat) {s s' : State} (h : MachineUnmoved s s') :
    MachineUnmoved (stepRotors^[n] s) (stepRotors^[n] s') := by
  induction n generalizing s s' with
  | zero => exact h
  | succ n ih => exact ih (stepRotors_machineUnmoved h)

/-- What a running machine answers to ENCODE_CHAR `c`: OK, and the code itself where it is no letter (44_machine.md
R205, R206). -/
def IsOutputOf (c : Code) (r : Word) : Prop :=
  responseStatus r = 0x00#8 ∧ (isKey c = false → responseCode r = c)

/-- One ENCODE_CHAR steps the rotors on a letter, and moves nothing on another code. -/
theorem exec_encodeChar {s : State} (hv : s.cfgValid = true) (c : Code) :
    ∃ t r, exec (.encodeChar c) s = .next t ∧ t.responses = s.responses ++ [r] ∧ IsOutputOf c r
      ∧ MachineUnmoved (stepRotors^[if isKey c = true then 1 else 0] s) t := by
  cases hc : isKey c with
  | false =>
    exact ⟨_, _, execEncodeChar_of_nonletter hv hc, rfl,
      ⟨responseStatus_responseWord _ _, fun _ => responseCode_zext16 _ _⟩, rfl, rfl, rfl⟩
  | true =>
    exact ⟨_, _, execEncodeChar_of_key hv hc, (answered_stepRotors s _ _).1,
      ⟨responseStatus_responseWord _ _, fun h => nomatch hc.symm.trans h⟩, rfl, rfl, rfl⟩

theorem execAll_encodeStr {s : State} (hv : s.cfgValid = true) (text : List Code) :
    ∃ t outs, execAll (encodeStr text) s = .next t ∧ t.responses = s.responses ++ outs
      ∧ List.Forall₂ IsOutputOf text outs ∧ MachineUnmoved (stepRotors^[text.countP isKey] s) t := by
  induction text generalizing s with
  | nil => exact ⟨s, [], rfl, (List.append_nil _).symm, .nil, rfl, rfl, rfl⟩
  | cons c text ih =>
    obtain ⟨u, r, hu, hr, hout, hmoved⟩ := exec_encodeChar hv c
    have hon : u.cfgValid = true := (exec_keeps_machine hu nofun).1.trans hv
    obtain ⟨t, outs, ht, houts, hall, hpos, hvt, hat⟩ := ih hon
    obtain ⟨hpos', hv', ha'⟩ := iterate_stepRotors_machineUnmoved (text.countP isKey) hmoved
    rw [← Function.iterate_add_apply, ← List.countP_cons] at hpos' hv' ha'
    exact ⟨t, r :: outs, (execAll_cons hu _).trans ht, by simp [houts, hr], .cons hout hall, hpos.trans hpos',
      hvt.trans hv', hat.trans ha'⟩

/-- Settles O40: the outputs match the text code by code, and the machine is the one its letters have stepped. -/
theorem stringEncodingIsOneToOne : Obligations.StringEncodingIsOneToOne := by
  intro text s hv
  obtain ⟨t, outs, ht, houts, hall, hpos, _⟩ := execAll_encodeStr hv text
  refine ⟨t, outs, ht, houts, hall.length_eq.symm, fun j c r hc hr => ?_, hpos⟩
  obtain ⟨hj, rfl⟩ := List.getElem?_eq_some_iff.mp hc
  obtain ⟨hj', rfl⟩ := List.getElem?_eq_some_iff.mp hr
  exact List.Forall₂.get hall hj hj'

/-! The keypress permutation undoes itself (44_machine.md R209). -/

/-- The pass through a table's inverse undoes the pass through the table, at the same position and ring offset
(42_rotor.md R142). -/
theorem rotorPass_rotorPass {f b : Table} (h : ∀ i : Idx, b[f[i]] = i) (pos ring x : Idx) :
    rotorPass b pos ring (rotorPass f pos ring x) = x := by
  simp only [rotorPass_eq, sub_add_cancel, h, add_sub_cancel_right]

/-- A machine that decrypts what it encrypts: it is good and its reflector is an involution (44_machine.md R209). -/
def Reciprocal (s : State) : Prop := s.cfgValid = true ∧ s.active.Good ∧ Involutive s.active.refl

theorem keypress_keypress {s : State} (h : Reciprocal s) (x : Idx) : keypress s (keypress s x) = x := by
  obtain ⟨_, ⟨htables, hplug, _⟩, hrefl⟩ := h
  have hswap (y : Idx) : swap s (swap s y) = y := hplug y
  have hreflect (y : Idx) : reflect s (reflect s y) = y := hrefl y
  have hback (k : Slot) (y : Idx) : rotorBackwardPass s k (rotorForwardPass s k y) = y :=
    rotorPass_rotorPass (htables k).1 _ _ y
  have hforth (k : Slot) (y : Idx) : rotorForwardPass s k (rotorBackwardPass s k y) = y :=
    rotorPass_rotorPass (htables k).2 _ _ y
  simp only [keypress, hswap, hreflect, hback, hforth]

theorem upcase_of_not_isKey {c : Code} (h : isKey c = false) : upcase c = c := by
  revert c; decide

theorem upcase_i2l (i : Idx) : upcase (i2l i.val) = i2l i.val := by
  revert i; decide

/-- ENCODE_CHAR on an upper-case letter (44_machine.md R205). -/
theorem exec_encodeChar_i2l {s : State} (hv : s.cfgValid = true) (x : Idx) :
    exec (.encodeChar (i2l x.val)) s =
      .next ((stepRotors s).answered .ok (zext16 (i2l (keypress (stepRotors s) x).val))) := by
  have hkey : isKey (i2l x.val) = true := by rw [isKey, upcase_i2l, isLetter_i2l]
  have h := execEncodeChar_of_key hv hkey
  rwa [upcase_i2l, letterIndex_i2l] at h

/-- From the same machine, the output of ENCODE_CHAR encodes back to the upper case of its input. -/
theorem encodeChar_decrypts {s s' : State} (h : MachineUnmoved s s') (hs : Reciprocal s) (c : Code) :
    ∃ t t' r r', exec (.encodeChar c) s = .next t ∧ t.responses = s.responses ++ [r]
      ∧ exec (.encodeChar (responseCode r)) s' = .next t' ∧ t'.responses = s'.responses ++ [r']
      ∧ responseCode r' = upcase c ∧ MachineUnmoved t t' := by
  have ⟨_, hv', _⟩ := h
  have ⟨hv, _⟩ := hs
  have hon := hv'.trans hv
  cases hc : isKey c with
  | false =>
    have hback : exec (.encodeChar (responseCode (responseWord .ok (zext16 c)))) s'
        = .next (s'.answered .ok (zext16 c)) := by
      rw [responseCode_zext16]
      exact execEncodeChar_of_nonletter hon hc
    exact ⟨_, _, _, _, execEncodeChar_of_nonletter hv hc, rfl, hback, rfl,
      (responseCode_zext16 _ c).trans (upcase_of_not_isKey hc).symm, h⟩
  | true =>
    have hstep := stepRotors_machineUnmoved h
    have hundo (x : Idx) : keypress (stepRotors s') (keypress (stepRotors s) x) = x := by
      rw [keypress_machineUnmoved hstep]
      exact keypress_keypress (s := stepRotors s) (by simpa [Reciprocal] using hs) x
    have hback := exec_encodeChar_i2l hon (keypress (stepRotors s) (letterIndex (upcase c)))
    rw [hundo, i2l_letterIndex hc, ← responseCode_zext16 .ok (i2l _)] at hback
    exact ⟨_, _, _, _, execEncodeChar_of_key hv hc, (answered_stepRotors s _ _).1, hback,
      (answered_stepRotors s' _ _).1, responseCode_zext16 _ _, hstep⟩

/-- A text's outputs encode back to its upper case, from the same machine (44_machine.md R209). -/
theorem encodeStr_decrypts (text : List Code) {s s' : State} (h : MachineUnmoved s s') (hs : Reciprocal s) :
    ∃ t t' outs backs, execAll (encodeStr text) s = .next t ∧ t.responses = s.responses ++ outs
      ∧ outs.length = text.length
      ∧ execAll (encodeStr (outs.map responseCode)) s' = .next t' ∧ t'.responses = s'.responses ++ backs
      ∧ backs.map responseCode = text.map upcase ∧ MachineUnmoved t t' := by
  induction text generalizing s s' with
  | nil => exact ⟨s, s', [], [], rfl, (List.append_nil _).symm, rfl, rfl, (List.append_nil _).symm, rfl, h⟩
  | cons c text ih =>
    obtain ⟨u, u', r, r', hu, hr, hu', hr', hcode, hm⟩ := encodeChar_decrypts h hs c
    have hsu : Reciprocal u := by
      obtain ⟨hv, ha⟩ := exec_keeps_machine hu nofun
      simpa only [Reciprocal, hv, ha] using hs
    obtain ⟨t, t', outs, backs, ht, houts, hlen, ht', hbacks, hcodes, hm'⟩ := ih hm hsu
    exact ⟨t, t', r :: outs, r' :: backs, (execAll_cons hu _).trans ht, by simp [houts, hr], by simp [hlen],
      (execAll_cons hu' _).trans ht', by simp [hbacks, hr'], by simp [hcodes, hcode], hm'⟩

/-! RESTART. -/

/-- The state that a successful CFG_COMMIT leaves, before its response (44_machine.md R196). -/
def committed (s : State) : State :=
  { s with active := builtActive standardRoms s.staging s.active, pos := builtPos s.staging, cfgValid := true }

theorem exec_cfgCommit_of_committable {s : State} (h : Committable s.staging) :
    exec .cfgCommit s = .next ((committed s).answered .ok 0#16) :=
  commit_of_ok ((validate_eq_ok standardRoms _).2 h)

/-- RESTART from the same staging area builds the same machine (44_machine.md R209). -/
theorem committed_machineUnmoved {s t : State} (h : Committable s.staging) (hst : t.staging = s.staging) :
    MachineUnmoved (committed s) (committed t) := by
  refine ⟨?_, rfl, ?_⟩
  · simp only [committed, hst]
  · simp only [committed, hst]
    exact builtActive_forgets standardRoms_sound h _ _

theorem committed_reciprocal {s : State} (h : Committable s.staging) (hplug : Involutive s.staging.plug)
    (hrefl : Involutive (builtRefl standardRoms s.staging)) : Reciprocal (committed s) :=
  ⟨rfl, builtActive_good standardRoms_sound h hplug _, hrefl⟩

/-- Commands presented to a block with nothing else presented are run by its steps, and nothing is left waiting. -/
theorem run_present {is : List Instr} (hwf : ∀ i ∈ is, WellFormed i = true) {s t : State} (hp : s.pending = [])
    (ht : execAll is s = .next t) :
    Host.Core.run Sys2Proof.core is.length (present is s) = .next t ∧ t.pending = [] := by
  have hpresent : { present is s with pending := [] } = s := by rw [← hp]; rfl
  obtain ⟨u, hu, hall, hwait, _⟩ := commandsTakeEffectInOrder is (present is s) [] hwf (by simp [hp])
  rw [hpresent] at hall
  cases ht.symm.trans hall
  exact ⟨hu, hwait⟩

theorem stagingAfter_encodeStr (text : List Code) (g : Staging) : stagingAfter (encodeStr text) g = g := by
  induction text with
  | nil => rfl
  | cons c text ih => exact ih

/-- RESTART and a text run through the block's own steps, and leave the staging area as it is. -/
theorem run_restart_encodeStr {s t : State} (hg : Committable s.staging) (hp : s.pending = []) {text : List Code}
    (ht : execAll (encodeStr text) ((committed s).answered .ok 0#16) = .next t) :
    Host.Core.run Sys2Proof.core (1 + text.length) (present (restart ++ encodeStr text) s) = .next t
      ∧ t.pending = [] ∧ t.staging = s.staging := by
  have hall : execAll (restart ++ encodeStr text) s = .next t :=
    (execAll_cons (exec_cfgCommit_of_committable hg) _).trans ht
  have hwf : ∀ i ∈ restart ++ encodeStr text, WellFormed i = true := by simp [restart, encodeStr, WellFormed]
  have hlen : (restart ++ encodeStr text).length = 1 + text.length := by simp [restart, encodeStr, Nat.add_comm]
  obtain ⟨hrun, hwait⟩ := run_present hwf hp hall
  rw [hlen] at hrun
  obtain ⟨u, hu, hstg, _⟩ := execAll_staging (encodeStr text) ((committed s).answered .ok 0#16)
  cases ht.symm.trans hu
  exact ⟨hrun, hwait, hstg.trans (stagingAfter_encodeStr text _)⟩

/-- Settles O43: RESTART rebuilds the machine that encoded the text, and from the same machine the outputs encode
back. -/
theorem restartDecrypts : Obligations.RestartDecrypts := by
  intro text s hplug hg hrefl hp
  obtain ⟨t, ht, _⟩ := execAll_staging (encodeStr text) ((committed s).answered .ok 0#16)
  obtain ⟨hrun, hwait, hstg⟩ := run_restart_encodeStr hg hp ht
  obtain ⟨t', u, outs, backs, ht', houts, hlen, hu, hbacks, hcodes, hpos, _⟩ :=
    encodeStr_decrypts text (s := (committed s).answered .ok 0#16) (s' := (committed t).answered .ok 0#16)
      (committed_machineUnmoved hg hstg) (committed_reciprocal hg hplug hrefl)
  cases ht.symm.trans ht'
  obtain ⟨hrun', _, _⟩ := run_restart_encodeStr (hstg ▸ hg) hwait hu
  rw [List.length_map, hlen] at hrun'
  exact ⟨t, u, outs, backs, responseWord .ok 0#16, hrun, houts, hrun', hbacks, hcodes, hpos⟩

end Sys2Proof.Machine
end

section
/-! The alphabet functions of spec/40_alphabet.md, one fact for each branch of R101 and each result of R103 and R104,
and O8. -/
namespace Sys2Proof.Machine

/-! ### upcase -/

/-- The codes that `upcase` changes (40_alphabet.md R101), as numbers. -/
theorem lowercase_iff (c : Code) : (0x61#8 ≤ c ∧ c ≤ 0x7A#8) ↔ 0x61 ≤ c.toNat ∧ c.toNat ≤ 0x7A := by
  simp [BitVec.le_def]

theorem toNat_upcase_of_lowercase {c : Code} (h : 0x61 ≤ c.toNat ∧ c.toNat ≤ 0x7A) :
    (upcase c).toNat = c.toNat - 0x20 := by
  rw [upcase, if_pos ((lowercase_iff c).mpr h), BitVec.toNat_sub_of_le (by simp [BitVec.le_def]; omega)]
  rfl

theorem upcase_of_not_lowercase {c : Code} (h : ¬ (0x61 ≤ c.toNat ∧ c.toNat ≤ 0x7A)) : upcase c = c :=
  if_neg fun hc => h ((lowercase_iff c).mp hc)

/-- The laws' last part (40_alphabet.md R105): what `upcase` makes of a lower-case letter lies below 0x61. -/
theorem upcase_upcase (c : Code) : upcase (upcase c) = upcase c := by
  by_cases h : 0x61 ≤ c.toNat ∧ c.toNat ≤ 0x7A
  · have hup := toNat_upcase_of_lowercase h
    exact upcase_of_not_lowercase (by omega)
  · rw [upcase_of_not_lowercase h, upcase_of_not_lowercase h]

/-! ### l2i and i2l -/

theorem l2i_of_isLetter {u : Code} (h : isLetter u = true) : l2i u = some (letterIndex u) := if_pos h

theorem toNat_i2l (a : Int) : ((i2l a).toNat : Int) = 0x41 + a % 26 := by
  have hval := mod26_val a
  have hlt := (mod26 a).isLt
  rw [i2l, BitVec.toNat_add, BitVec.toNat_ofNat, BitVec.toNat_ofNat]
  omega

theorem l2i_i2l (i : Idx) : l2i (i2l i.val) = some i := by
  rw [l2i_of_isLetter (isLetter_i2l i), letterIndex_i2l]

/-- `l2i` answers exactly on the codes that `i2l` makes of an index. -/
theorem l2i_eq_some_iff_eq_i2l (u : Code) (i : Idx) : l2i u = some i ↔ u = i2l i.val := by
  constructor
  · intro h
    obtain ⟨hu, rfl⟩ : isLetter u = true ∧ letterIndex u = i := by simpa [l2i] using h
    exact (i2l_letterIndex hu).symm
  · rintro rfl
    exact l2i_i2l i

theorem l2i_eq_some_iff (u : Code) (i : Idx) : l2i u = some i ↔ 0x41 ≤ u.toNat ∧ u.toNat = 0x41 + i.val := by
  have hcode := toNat_i2l i.val
  rw [l2i_eq_some_iff_eq_i2l, ← BitVec.toNat_inj]
  omega

/-- Settles O8, each clause from the lemma that states it. -/
theorem alphabetFunctions : Obligations.AlphabetFunctions :=
  ⟨fun c => ⟨toNat_upcase_of_lowercase, upcase_of_not_lowercase, isLetter_iff c⟩, l2i_eq_some_iff, toNat_i2l,
    fun u hu => ⟨letterIndex u, l2i_of_isLetter hu, i2l_letterIndex hu⟩, l2i_i2l, upcase_upcase⟩

end Sys2Proof.Machine
end

section
/-! Pairs on the plugboard under construction (spec/41_plugboard.md): the outcomes of CFG_PLUG, the order and the number
of accepted pairs; and which commands change nothing more when repeated (spec/20_memory.md R56). -/
namespace Sys2Proof.Machine

/-! One pair (41_plugboard.md R111 to R113). -/

theorem addPair_of_invalid {g : Staging} {a b : Code} (hok : g.plugErr = .none) (h : pairIsValid a b = false) :
    addPair a b g = { g with plugErr := .invalidPair } := by
  simp [addPair, hok, h]

theorem addPair_of_conflict {g : Staging} {a b : Code} (hok : g.plugErr = .none) (hvalid : pairIsValid a b = true)
    (h : ¬ Accepted g.plug (a, b)) : addPair a b g = { g with plugErr := .conflictingPair } := by
  have hconflict : pairConflicts g.plug a b = true := by simpa [Accepted, hvalid] using h
  simp [addPair, hok, hvalid, hconflict]

/-- Only an accepted pair over no earlier failure leaves no error. -/
theorem accepted_of_addPair {g : Staging} {p : Code × Code} (h : (addPair p.1 p.2 g).plugErr = .none) :
    g.plugErr = .none ∧ Accepted g.plug p := by
  refine ⟨?_, ?_⟩
  · by_contra hfail
    exact hfail (addPair_of_failed hfail p.1 p.2 ▸ h)
  · by_contra hp
    exact addPair_plugErr_of_not_accepted hp h

theorem addPair_plugErr_of_accepted {g : Staging} {p : Code × Code} (hok : g.plugErr = .none)
    (hp : Accepted g.plug p) : (addPair p.1 p.2 g).plugErr = .none := by
  rw [addPair_of_accepted hok hp]; exact hok

/-- After an accepted pair, the pairs accepted are those accepted before that share no letter with it. -/
theorem accepted_addPair_iff {g : Staging} {p : Code × Code} (hok : g.plugErr = .none) (hp : Accepted g.plug p)
    (q : Code × Code) : Accepted (addPair p.1 p.2 g).plug q ↔ Accepted g.plug q ∧ DisjointPairs p q := by
  rw [addPair_of_accepted hok hp]; exact accepted_swapPair_iff hp q

/-- An error, once set, is not lifted by more pairs. -/
theorem plugErr_of_stagingAfter {g : Staging} {ps : List (Code × Code)}
    (h : (stagingAfter (plugCommands ps) g).plugErr = .none) : g.plugErr = .none := by
  by_contra hfail
  exact hfail (stagingAfter_plugCommands_of_failed hfail ps ▸ h)

section Letters
variable {a b : Code} {x y : Idx} (hx : i2l x.val = upcase a) (hy : i2l y.val = upcase b) (hne : x ≠ y)
include hx hy hne

/-- Two different letters make a valid pair. -/
theorem pairIsValid_of_i2l : pairIsValid a b = true := by
  rw [pairIsValid_iff, ← hx, ← hy]
  refine ⟨isLetter_i2l x, isLetter_i2l y, fun h => hne ?_⟩
  rw [← letterIndex_i2l x, h, letterIndex_i2l]

/-- Two different letters are accepted exactly when both are unpaired. -/
theorem accepted_iff_of_i2l (plug : Table) : Accepted plug (a, b) ↔ plug[x] = x ∧ plug[y] = y := by
  rw [Accepted, and_iff_right (pairIsValid_of_i2l hx hy hne), pairConflicts_eq_false_iff]
  simp only [← hx, ← hy, letterIndex_i2l]

/-- An accepted pair makes its two letters each other's partners (41_plugboard.md R113). -/
theorem addPair_of_i2l {g : Staging} (hok : g.plugErr = .none) (hpx : g.plug[x] = x) (hpy : g.plug[y] = y) :
    addPair a b g = { g with plug := swapPair g.plug x y } := by
  rw [addPair_of_accepted (p := (a, b)) hok ((accepted_iff_of_i2l hx hy hne g.plug).mpr ⟨hpx, hpy⟩)]
  simp only [← hx, ← hy, letterIndex_i2l]

end Letters

/-- Settles O15: `addPair` in each of its four cases. -/
theorem cfgPlugOutcomes : Obligations.CfgPlugOutcomes := by
  intro a b s
  refine ⟨_, execCfgPlug_eq a b s, decode_encode (i := .cfgPlug a b) rfl, ⟨rfl, rfl, rfl⟩, ⟨rfl, rfl, rfl⟩,
    fun hfail => addPair_of_failed hfail a b, fun hok hbad => addPair_of_invalid hok ?_,
    fun x y hok hx hy hne => ⟨fun hpaired => ?_, fun hpx hpy => ?_⟩⟩
  · rw [Bool.eq_false_iff, ne_eq, pairIsValid_iff]
    rintro ⟨ha, hb, hab⟩
    simp [ha, hb, hab] at hbad
  · refine addPair_of_conflict hok (pairIsValid_of_i2l hx hy hne) fun h => ?_
    obtain ⟨hpx, hpy⟩ := (accepted_iff_of_i2l hx hy hne s.staging.plug).mp h
    exact hpaired.elim (· hpx) (· hpy)
  · rw [State.answered_staging, addPair_of_i2l hx hy hne hok hpx hpy]
    refine ⟨?_, ?_, fun z hzx hzy => ?_, rfl⟩
    · rw [getElem_swapPair, if_neg hne, if_pos rfl]
    · rw [getElem_swapPair, if_pos rfl]
    · rw [getElem_swapPair, if_neg hzy, if_neg hzx]

/-! The order of accepted pairs (41_plugboard.md R114). -/

/-- Swaps with no letter in common commute. -/
theorem swapPair_comm (t : Table) {a b c d : Idx} (hac : a ≠ c) (had : a ≠ d) (hbc : b ≠ c) (hbd : b ≠ d) :
    swapPair (swapPair t a b) c d = swapPair (swapPair t c d) a b := by
  simp only [swapPair]
  rw [Vector.set_comm _ _ (Fin.val_ne_of_ne hbc), Vector.set_comm _ _ (Fin.val_ne_of_ne hac),
    Vector.set_comm _ _ (Fin.val_ne_of_ne hbd), Vector.set_comm _ _ (Fin.val_ne_of_ne had)]

theorem DisjointPairs.symm {p q : Code × Code} (h : DisjointPairs p q) : DisjointPairs q p := by
  obtain ⟨h11, h12, h21, h22⟩ := h
  exact ⟨h11.symm, h21.symm, h12.symm, h22.symm⟩

/-- Two pairs that are both accepted give the same staging area in either order. -/
theorem addPair_comm {g : Staging} {p q : Code × Code} (h : (addPair q.1 q.2 (addPair p.1 p.2 g)).plugErr = .none) :
    addPair p.1 p.2 (addPair q.1 q.2 g) = addPair q.1 q.2 (addPair p.1 p.2 g) := by
  obtain ⟨hok', hq'⟩ := accepted_of_addPair h
  obtain ⟨hok, hp⟩ := accepted_of_addPair hok'
  obtain ⟨hq, hpq⟩ := (accepted_addPair_iff hok hp q).mp hq'
  have hp' := (accepted_addPair_iff hok hq p).mpr ⟨hp, hpq.symm⟩
  rw [addPair_of_accepted hok' hq', addPair_of_accepted (addPair_plugErr_of_accepted hok hq) hp',
    addPair_of_accepted hok hp, addPair_of_accepted hok hq]
  obtain ⟨hp1, hp2, _⟩ := (pairIsValid_iff p.1 p.2).mp hp.1
  obtain ⟨hq1, hq2, _⟩ := (pairIsValid_iff q.1 q.2).mp hq.1
  obtain ⟨h11, h12, h21, h22⟩ := hpq
  rw [swapPair_comm _ ((letterIndex_ne_iff hp1 hq1).mpr h11) ((letterIndex_ne_iff hp1 hq2).mpr h12)
    ((letterIndex_ne_iff hp2 hq1).mpr h21) ((letterIndex_ne_iff hp2 hq2).mpr h22)]

/-- Pairs that leave no error leave the same staging area in any order. -/
theorem stagingAfter_plugCommands_perm {ps qs : List (Code × Code)} (h : ps.Perm qs) {g : Staging}
    (hok : (stagingAfter (plugCommands ps) g).plugErr = .none) :
    stagingAfter (plugCommands qs) g = stagingAfter (plugCommands ps) g := by
  induction h generalizing g with
  | nil => rfl
  | cons p _ ih => exact ih hok
  | swap p q ps =>
    simp only [stagingAfter_plugCommands_cons] at hok ⊢
    rw [addPair_comm (plugErr_of_stagingAfter hok)]
  | trans _ _ ih₁ ih₂ => rw [ih₂ (ih₁ hok ▸ hok), ih₁ hok]

/-- Settles O18: accepted pairs commute; the two lists of the example run from the cleared staging area. -/
theorem acceptedPairOrderIsFree : Obligations.AcceptedPairOrderIsFree := by
  refine ⟨fun ps qs s t hperm ht hok => ?_, fun s => ⟨?_, ?_⟩⟩
  · obtain ⟨t', ht', hstg, _⟩ := execAll_staging (plugCommands ps) s
    cases ht.symm.trans ht'
    obtain ⟨u, hu, hstg', _⟩ := execAll_staging (plugCommands qs) s
    exact ⟨u, hu, by rw [hstg', hstg, stagingAfter_plugCommands_perm hperm (hstg ▸ hok)]⟩
  all_goals
    obtain ⟨t, ht, hstg, _⟩ := execAll_staging _ s
    refine ⟨t, ht, ?_⟩
    rw [hstg]
    rfl

/-! The number of accepted pairs (41_plugboard.md R116). -/

/-- The letters that a plugboard map leaves unpaired. -/
def unpaired (t : Table) : Finset Idx := Finset.univ.filter fun x => t[x] = x

theorem mem_unpaired {t : Table} {x : Idx} : x ∈ unpaired t ↔ t[x] = x := by simp [unpaired]

/-- An accepted pair takes two letters out of the unpaired ones. -/
theorem card_unpaired_swapPair {t : Table} {p : Code × Code} (h : Accepted t p) :
    (unpaired (swapPair t (letterIndex (upcase p.1)) (letterIndex (upcase p.2)))).card + 2 = (unpaired t).card := by
  obtain ⟨hp1, hp2, hne⟩ := (pairIsValid_iff p.1 p.2).mp h.1
  have hab := (letterIndex_ne_iff hp1 hp2).mpr hne
  obtain ⟨ha, hb⟩ := (pairConflicts_eq_false_iff t p.1 p.2).mp h.2
  have hset : unpaired (swapPair t (letterIndex (upcase p.1)) (letterIndex (upcase p.2)))
      = unpaired t \ {letterIndex (upcase p.1), letterIndex (upcase p.2)} := by
    ext z
    simp only [mem_unpaired, swapPair_fixes_iff t hab, Finset.mem_sdiff, Finset.mem_insert, Finset.mem_singleton,
      not_or, eq_comm (a := z), and_comm]
  have hsub : {letterIndex (upcase p.1), letterIndex (upcase p.2)} ⊆ unpaired t := by
    simp [Finset.insert_subset_iff, mem_unpaired, ha, hb]
  rw [hset, ← Finset.card_pair hab, Finset.card_sdiff_add_card_eq_card hsub]

/-- Pairs that leave no error pair two letters each. -/
theorem card_unpaired_stagingAfter (ps : List (Code × Code)) {g : Staging}
    (hok : (stagingAfter (plugCommands ps) g).plugErr = .none) :
    (unpaired (stagingAfter (plugCommands ps) g).plug).card + 2 * ps.length = (unpaired g.plug).card := by
  induction ps generalizing g with
  | nil => rfl
  | cons p ps ih =>
    rw [stagingAfter_plugCommands_cons] at hok ⊢
    obtain ⟨hg, hp⟩ := accepted_of_addPair (plugErr_of_stagingAfter hok)
    have hrest := ih hok
    rw [addPair_of_accepted hg hp] at hrest ⊢
    have hpair := card_unpaired_swapPair hp
    simp only [List.length_cons] at hrest ⊢
    omega

/-- Settles O19: of the 26 letters each pair takes two, and after 13 pairs none is left. -/
theorem atMostThirteenPairs : Obligations.AtMostThirteenPairs := by
  intro ps s t ht hok
  obtain ⟨t', ht', hstg, _⟩ := execAll_staging (.cfgClear :: plugCommands ps) s
  cases ht.symm.trans ht'
  replace hstg : t.staging = stagingAfter (plugCommands ps) Staging.cleared := hstg
  have hcard := card_unpaired_stagingAfter ps (hstg ▸ hok)
  have hall : (unpaired Staging.cleared.plug).card = 26 := by simp [unpaired, Staging.cleared, identityTable]
  rw [hall, ← hstg] at hcard
  refine ⟨by omega, fun hlen a b ha hb hab => ⟨_, execCfgPlug_eq a b t, ?_⟩⟩
  have hnone : unpaired t.staging.plug = ∅ := Finset.card_eq_zero.mp (by omega)
  have hconflict : ¬ Accepted t.staging.plug (a, b) := fun h => by
    have hmem := mem_unpaired.mpr ((pairConflicts_eq_false_iff t.staging.plug a b).mp h.2).1
    simp [hnone] at hmem
  rw [State.answered_staging, addPair_of_conflict hok ((pairIsValid_iff a b).mpr ⟨ha, hb, hab⟩) hconflict]

/-! Repeated commands (20_memory.md R56). -/

/-- The second run of the command leaves the block as the first left it, and gives the same response. -/
def Repeats (i : Instr) (s : State) : Prop :=
  ∃ t u w, exec i s = .next t ∧ exec i t = .next u ∧ SameBlock t u ∧ Answered s t w ∧ Answered t u w

/-- A command that leaves the block as it is repeats: its effect depends on the block alone. -/
theorem repeats_of_sameBlock {i : Instr} {s : State} {st : Status} {data : BitVec 16}
    (e : exec i s = .next (s.answered st data)) : Repeats i s := by
  obtain ⟨t, u, w, ht, hu, hsame, hw, hw'⟩ :=
    exec_sameBlock i (s := s) (s' := s.answered st data) ⟨rfl, rfl, rfl, rfl⟩
  cases e.symm.trans ht
  exact ⟨_, u, w, e, hu, hsame, hw, hw'⟩

/-- A staging command repeats when the staging area it leaves is one that it does not change. -/
theorem repeats_of_isStaging {i : Instr} (h : isStaging i = true) {s : State}
    (hstg : nextStaging i (nextStaging i s.staging) = nextStaging i s.staging) : Repeats i s := by
  obtain ⟨st, hexec⟩ := exec_of_isStaging h
  exact ⟨_, _, _, hexec s, hexec _, ⟨rfl, rfl, rfl, hstg⟩, ⟨rfl, rfl, rfl⟩, rfl, rfl, rfl⟩

/-- The second write of a buffer entry writes the code that stands there. -/
theorem cfgWire_repeats (j : BitVec 5) (c : Code) (s : State) : Repeats (.cfgWire j c) s := by
  refine repeats_of_isStaging rfl ?_
  by_cases h : j.toNat < 26
  · simp [nextStaging, h]
  · simp [nextStaging, h]

theorem committed_staging (s : State) : (committed s).staging = s.staging := rfl

theorem answered_committed (s : State) (st : Status) (data : BitVec 16) :
    Answered s ((committed s).answered st data) (responseWord st data) := ⟨rfl, rfl, rfl⟩

/-- The second CFG_COMMIT meets the staging area of the first, and either builds the same machine or fails alike. -/
theorem cfgCommit_repeats (s : State) : Repeats .cfgCommit s := by
  by_cases h : Committable s.staging
  · have h' : Committable ((committed s).answered .ok 0#16).staging := h
    obtain ⟨hpos, hv, ha⟩ := committed_machineUnmoved h (t := (committed s).answered .ok 0#16) (committed_staging s)
    exact ⟨_, _, _, exec_cfgCommit_of_committable h, exec_cfgCommit_of_committable h', ⟨hpos, hv, ha, committed_staging _⟩,
      answered_committed s _ _, answered_committed _ _ _⟩
  · have hne := mt (validate_eq_ok standardRoms s.staging).mp h
    exact ⟨_, _, _, commit_of_ne hne, commit_of_ne hne, ⟨rfl, rfl, rfl, rfl⟩, ⟨rfl, rfl, rfl⟩, rfl, rfl, rfl⟩

/-- The second SET_POSITION overwrites the position with the letter that stands there, or fails as the first did. -/
theorem setPosition_repeats (k : BitVec 2) (c : Code) (s : State) : Repeats (.setPosition k c) s := by
  by_cases hk : k = 3#2
  · subst hk
    exact repeats_of_sameBlock (execSetPosition_slot3 c s)
  · cases hv : s.cfgValid with
    | false => exact repeats_of_sameBlock (execSetPosition_of_invalid hk hv c)
    | true =>
      cases hc : isKey c with
      | false => exact repeats_of_sameBlock (execSetPosition_of_nonletter hk hv hc)
      | true =>
        obtain ⟨hlt, _⟩ := slotOf_of_ne hk
        have hset (t : State) (ht : t.cfgValid = true) := execSetPosition_of_letter hlt ht hc
        exact ⟨_, _, _, hset s hv, hset _ hv, ⟨by simp, rfl, rfl, rfl⟩, ⟨rfl, rfl, rfl⟩, rfl, rfl, rfl⟩

/-- A pair that left no error conflicts when repeated: it shares its letters with itself. -/
theorem addPair_twice {g : Staging} {a b : Code} (h : (addPair a b g).plugErr = .none) :
    (addPair a b (addPair a b g)).plugErr = .conflictingPair := by
  obtain ⟨hok, hp⟩ := accepted_of_addPair (p := (a, b)) h
  have hconflict : ¬ Accepted (addPair a b g).plug (a, b) := fun hagain => by
    obtain ⟨_, hne, _⟩ := (accepted_addPair_iff hok hp (a, b)).mp hagain
    exact hne rfl
  rw [addPair_of_conflict h hp.1 hconflict]

/-- Settles O27, command by command. -/
theorem idempotentCommands : Obligations.IdempotentCommands := by
  refine ⟨fun i s t r ht hr hi => ?_, fun a b s t ht hok => ⟨_, execCfgPlug_eq a b t, ?_⟩⟩
  · have hrep : Repeats i s := by
      obtain rfl | ⟨j, c, rfl⟩ | ⟨n, rfl⟩ | rfl | rfl | ⟨k, c, rfl⟩ | rfl := hi
      · exact repeats_of_isStaging rfl rfl
      · exact cfgWire_repeats j c s
      · exact repeats_of_isStaging rfl rfl
      · exact repeats_of_isStaging rfl rfl
      · exact repeats_of_sameBlock (execReadState_eq s)
      · exact setPosition_repeats k c s
      · exact cfgCommit_repeats s
    obtain ⟨t', u, w, ht', hu, hsame, hw, hw'⟩ := hrep
    cases ht.symm.trans ht'
    obtain ⟨hresp, _⟩ := hr
    obtain ⟨hresp', _⟩ := hw
    obtain rfl : r = w := by simpa using hresp.symm.trans hresp'
    exact ⟨u, hu, hw', hsame⟩
  · have hstg : t.staging = addPair a b s.staging := exec_staging ht
    rw [State.answered_staging, hstg]
    exact addPair_twice (hstg ▸ hok)

end Sys2Proof.Machine
end

section
/-! A command's word and its fields (spec/30_encoding.md R71, R77): which commands have an ILLEGAL word. -/
namespace Sys2Proof
open Sys2Proof.Machine

/-- The fields of a command's word are the command's operands (30_encoding.md R71, R73). -/
theorem withFieldsOf_encode (i : Instr) : withFieldsOf (encode i) i = i := by
  cases i with
  | cfgClear | cfgReflectorRaw | cfgCommit | readState => rfl
  | cfgRotor | cfgWire | cfgRotorRaw | cfgReflector | cfgPlug | encodeChar | setPosition =>
    simp (disch := decide) only [withFieldsOf, encode, BitVec.extractLsb'_append_eq_of_le,
      BitVec.extractLsb'_append_eq_of_add_le, Nat.reduceSub, BitVec.extractLsb'_eq_self]

/-- The word of a command is ILLEGAL exactly when an operand is out of range (30_encoding.md R77). -/
theorem illegalWord_encode_iff (i : Instr) : IllegalWord (encode i) ↔ WellFormed i = false := by
  rw [illegalWord_iff_of_inRow (selects_encode i), withFieldsOf_encode]

end Sys2Proof
end

section
/-! Rotors (spec/42_rotor.md): the staging of a rotor, the raw-wiring buffer, and the two passes. -/
namespace Sys2Proof.Machine

/-! Staging a rotor (42_rotor.md R132, R137). -/

/-- The slot of the count takes the record, and the count grows by one. -/
theorem stageRotor_slot (e : StagedRotor) {g : Staging} {k : Slot} (h : g.count.val = k.val) :
    (stageRotor e g).rot[k] = e ∧ (stageRotor e g).count.val = k.val + 1 := by
  obtain ⟨hrot, hcount⟩ := stageRotor_of_lt e g (h ▸ k.isLt)
  exact ⟨by simp [hrot, h], by rw [hcount, h]⟩

/-- Every other slot stays. -/
theorem stageRotor_otherSlot (e : StagedRotor) {g : Staging} {k : Slot} (h : g.count.val ≠ k.val) :
    (stageRotor e g).rot[k] = g.rot[k] := by
  by_cases hlt : g.count.val < 3
  · rw [(stageRotor_of_lt e g hlt).1]
    exact Vector.getElem_set_ne _ _ h
  · rw [(stageRotor_of_ge e g (by omega)).1]

/-- Nothing but the slots and the count is written. -/
theorem stageRotor_frame (e : StagedRotor) (g : Staging) :
    (stageRotor e g).reflKind = g.reflKind ∧ (stageRotor e g).reflName = g.reflName
      ∧ (stageRotor e g).reflWire = g.reflWire ∧ (stageRotor e g).plug = g.plug
      ∧ (stageRotor e g).plugErr = g.plugErr ∧ (stageRotor e g).wbuf = g.wbuf :=
  ⟨stageRotor_reflKind e g, stageRotor_reflName e g, stageRotor_reflWire e g, stageRotor_plug e g,
    stageRotor_plugErr e g, stageRotor_wbuf e g⟩

/-- Settles O10, from what staging a record does to its own slot, to the other slots and with no slot free. -/
theorem cfgRotorStagesNextSlot : Obligations.CfgRotorStagesNextSlot := by
  intro name ring pos s
  refine ⟨_, execCfgRotor_eq name ring pos s, decode_encode (i := .cfgRotor name ring pos) rfl, ⟨rfl, rfl, rfl⟩,
    ⟨rfl, rfl, rfl⟩, fun k hk => ?_, fun k => stageRotor_otherSlot _, fun h => (stageRotor_of_ge _ _ h).2,
    stageRotor_frame _ _⟩
  obtain ⟨hrot, hcount⟩ := stageRotor_slot (namedRotor name ring pos) hk
  rw [State.answered_staging, hrot]
  exact ⟨rfl, rfl, rfl, rfl, rfl, fun i => Vector.getElem_replicate i.isLt, hcount⟩

/-- Settles O11, as O10 with the record that copies the buffer. -/
theorem cfgRotorRawStagesBufferCopy : Obligations.CfgRotorRawStagesBufferCopy := by
  intro ring pos notch s
  refine ⟨_, execCfgRotorRaw_eq ring pos notch s, decode_encode (i := .cfgRotorRaw ring pos notch) rfl,
    ⟨rfl, rfl, rfl⟩, ⟨rfl, rfl, rfl⟩, fun k hk => ?_, fun k => stageRotor_otherSlot _,
    fun h => (stageRotor_of_ge _ _ h).2, stageRotor_frame _ _⟩
  obtain ⟨hrot, hcount⟩ := stageRotor_slot (rawRotor s.staging.wbuf ring pos notch) hk
  rw [State.answered_staging, hrot]
  exact ⟨rfl, rfl, rfl, rfl, rfl, rfl, hcount⟩

/-! The raw-wiring buffer (42_rotor.md R133). -/

/-- Settles O12: a legal index writes its entry, and a greater one makes an ILLEGAL word. -/
theorem cfgWireWritesOneEntry : Obligations.CfgWireWritesOneEntry := by
  intro index sym s
  refine ⟨fun h => ?_, fun h rest hp => ?_⟩
  · refine ⟨_, execCfgWire_of_le (by omega) sym s, decode_encode (i := .cfgWire index sym) (decide_eq_true h),
      ⟨rfl, rfl, rfl⟩, ⟨rfl, rfl, rfl⟩, fun i => ?_, rfl⟩
    simp only [State.answered_staging, Fin.getElem_fin, Vector.getElem_set, eq_comm]
  · have hill : IllegalWord (encode (.cfgWire index sym)) :=
      (illegalWord_encode_iff _).mpr (decide_eq_false (by omega))
    exact illegalWordsChangeNothing.2 _ s rest hill hp

/-! The passes (42_rotor.md R142). -/

/-- Settles O36: in a safe state with a machine each rotor's two tables are inverse, so the passes through them are. -/
theorem passesAreInverse : Obligations.PassesAreInverse := by
  intro s k x ⟨_, hgood⟩ hv
  obtain ⟨htables, _⟩ := hgood hv
  obtain ⟨hback, hforth⟩ := htables k
  exact ⟨rotorPass_rotorPass hback _ _ x, rotorPass_rotorPass hforth _ _ x⟩

end Sys2Proof.Machine
end

section
/-! CFG_COMMIT (spec/44_machine.md R194, R196): which check it reports, and what it builds. -/
namespace Sys2Proof.Machine

/-! The checks, each by the status it fails with (42_rotor.md R144, 43_reflector.md R175, 44_machine.md R194). -/

theorem firstFailure_cons_of_ok {st : Status} (h : st = .ok) (l : List Status) :
    firstFailure (st :: l) = firstFailure l := if_pos h

theorem firstFailure_cons_of_ne {st : Status} (h : st ≠ .ok) (l : List Status) :
    firstFailure (st :: l) = st := if_neg h

theorem checkRotor_of_unknown (rom : Roms) {e : StagedRotor} (hk : e.kind = .named) (h : 4 < e.name.toNat) :
    checkRotor rom e = .unknownRotor := by
  simp only [checkRotor, hk, if_pos ((romRotor_isNone rom e.name).mpr h)]
  exact firstFailure_cons_of_ne (by decide) _

theorem checkRotor_of_not_permutation (rom : Roms) {e : StagedRotor} (hk : e.kind = .raw)
    (h : ¬ IsLetterPermutation e.wire) : checkRotor rom e = .invalidWiring := by
  simp only [checkRotor, hk, if_neg h]
  exact firstFailure_cons_of_ne (by decide) _

/-- With the name or the wiring accepted, the position decides. -/
theorem checkRotor_of_position (rom : Roms) {e : StagedRotor} (h : RotorSourceOk e)
    (hp : isLetter (upcase e.pos) = false) : checkRotor rom e = .invalidSymbol := by
  unfold RotorSourceOk at h
  cases hk : e.kind with
  | named =>
    have hknown : ¬ (romRotor rom e.name).isNone = true := by
      simp only [hk] at h
      rw [romRotor_isNone]; omega
    simp only [checkRotor, hk, if_neg hknown, hp]
    rfl
  | raw =>
    simp only [hk] at h
    simp only [checkRotor, hk, if_pos h, hp]
    rfl

theorem checkReflector_of_none (rom : Roms) {g : Staging} (hk : g.reflKind = .none) :
    checkReflector rom g = .unknownReflector := by
  simp only [checkReflector, hk]

theorem checkReflector_of_unknown (rom : Roms) {g : Staging} (hk : g.reflKind = .named) (h : 2 < g.reflName.toNat) :
    checkReflector rom g = .unknownReflector := by
  simp only [checkReflector, hk, if_pos ((romReflector_isNone rom g.reflName).mpr h)]

theorem checkReflector_of_nonletter (rom : Roms) {g : Staging} (hk : g.reflKind = .raw)
    (h : ∃ i : Idx, isLetter g.reflWire[i] = false) : checkReflector rom g = .invalidWiring := by
  obtain ⟨i, hi⟩ := h
  have hnot : ¬ ∀ i : Idx, isLetter g.reflWire[i] = true := fun hall => nomatch (hall i).symm.trans hi
  simp only [checkReflector, hk, if_neg hnot]

/-! The first failure among them, in the order of R194. -/

section Validate
variable (rom : Roms) {g : Staging}

theorem validate_of_count_ne (h : g.count ≠ 3) : validate rom g = .invalidRotorCount := by
  rw [validate, if_neg h]
  exact firstFailure_cons_of_ne (by decide) _

theorem validate_of_count_eq (h : g.count = 3) :
    validate rom g = firstFailure [checkRotor rom g.rot[(0 : Slot)], checkRotor rom g.rot[(1 : Slot)],
      checkRotor rom g.rot[(2 : Slot)], checkReflector rom g, plugErrStatus g.plugErr] :=
  firstFailure_cons_of_ok (if_pos h) _

/-- With three rotors staged, the first that fails is reported. -/
theorem validate_of_rotor (hcount : g.count = 3) {k : Slot} (hbefore : ∀ j : Slot, j < k → RotorOk g.rot[j])
    {st : Status} (hne : st ≠ .ok) (h : checkRotor rom g.rot[k] = st) : validate rom g = st := by
  subst h
  have hpass (j : Slot) (hj : j < k) := (checkRotor_eq_ok rom _).mpr (hbefore j hj)
  rw [validate_of_count_eq rom hcount]
  match k with
  | 0 => exact firstFailure_cons_of_ne hne _
  | 1 =>
    rw [firstFailure_cons_of_ok (hpass 0 (by decide))]
    exact firstFailure_cons_of_ne hne _
  | 2 =>
    rw [firstFailure_cons_of_ok (hpass 0 (by decide)), firstFailure_cons_of_ok (hpass 1 (by decide))]
    exact firstFailure_cons_of_ne hne _

variable (hcount : g.count = 3) (hrotors : ∀ k : Slot, RotorOk g.rot[k])
include hcount hrotors

/-- With three good rotors, the reflector and then the plugboard decide. -/
theorem validate_of_rotors : validate rom g = firstFailure [checkReflector rom g, plugErrStatus g.plugErr] := by
  have hpass (k : Slot) := (checkRotor_eq_ok rom _).mpr (hrotors k)
  rw [validate_of_count_eq rom hcount, firstFailure_cons_of_ok (hpass 0), firstFailure_cons_of_ok (hpass 1),
    firstFailure_cons_of_ok (hpass 2)]

theorem validate_of_reflector {st : Status} (hne : st ≠ .ok) (h : checkReflector rom g = st) :
    validate rom g = st := by
  rw [validate_of_rotors rom hcount hrotors, h]
  exact firstFailure_cons_of_ne hne _

theorem validate_of_plugboard (h : ReflectorOk g) : validate rom g = plugErrStatus g.plugErr := by
  rw [validate_of_rotors rom hcount hrotors, firstFailure_cons_of_ok ((checkReflector_eq_ok rom g).mpr h)]
  cases g.plugErr with
  | none | invalidPair | conflictingPair => rfl

end Validate

/-- CFG_COMMIT answers with the result of its checks, whether they pass or not (44_machine.md R193). -/
theorem exec_cfgCommit_reports (s : State) :
    ∃ t, exec .cfgCommit s = .next t ∧ Answered s t (responseWord (validate standardRoms s.staging) 0#16) := by
  by_cases h : validate standardRoms s.staging = .ok
  · rw [h]; exact ⟨_, commit_of_ok h, rfl, rfl, rfl⟩
  · exact ⟨_, commit_of_ne h, rfl, rfl, rfl⟩

/-- Settles O22: the response is the result of the checks, and each clause is the check that fails first. -/
theorem commitReportsFirstFailure : Obligations.CommitReportsFirstFailure := by
  intro s
  obtain ⟨t, ht, hanswer⟩ := exec_cfgCommit_reports s
  have hreport {st : Status} (h : validate standardRoms s.staging = st) :
      responseWord (validate standardRoms s.staging) 0#16 = responseWord st 0#16 := by rw [h]
  refine ⟨t, _, ht, hanswer, fun h => hreport (validate_of_count_ne _ h),
    fun hcount => ⟨fun k hbefore => ?_, fun hrotors => ?_⟩⟩
  · have hrotor {st : Status} (hne : st ≠ .ok) (h : checkRotor standardRoms s.staging.rot[k] = st) :=
      hreport (validate_of_rotor standardRoms hcount hbefore hne h)
    exact ⟨fun hk hn => hrotor (by decide) (checkRotor_of_unknown _ hk hn),
      fun hk hw => hrotor (by decide) (checkRotor_of_not_permutation _ hk hw),
      fun hok hp => hrotor (by decide) (checkRotor_of_position _ hok hp)⟩
  · have hreflector {st : Status} (hne : st ≠ .ok) (h : checkReflector standardRoms s.staging = st) :=
      hreport (validate_of_reflector standardRoms hcount hrotors hne h)
    refine ⟨fun hk => hreflector (by decide) (checkReflector_of_none _ hk),
      fun hk hn => hreflector (by decide) (checkReflector_of_unknown _ hk hn),
      fun hk hw => hreflector (by decide) (checkReflector_of_nonletter _ hk hw), fun hok => ?_⟩
    have hplugboard {e : PlugErr} (he : s.staging.plugErr = e) :=
      hreport (he ▸ validate_of_plugboard standardRoms hcount hrotors hok)
    exact ⟨hplugboard, hplugboard, hplugboard⟩

/-! What CFG_COMMIT builds (44_machine.md R196). -/

theorem dvd_sub_ringOffset (c : Code) : (26 : Int) ∣ c.toInt - 1 - ((ringOffset c).val : Int) := by
  rw [ringOffset, mod26_val]
  exact Int.dvd_self_sub_emod

theorem i2l_wiringIndices {w : Wiring} {i : Idx} (h : isLetter w[i] = true) : i2l (wiringIndices w)[i].val = w[i] := by
  simp only [Fin.getElem_fin, getElem_wiringIndices]
  exact i2l_letterIndex h

/-- A raw rotor is built from its record (42_rotor.md R134). -/
theorem rotorSource_of_raw (rom : Roms) {e : StagedRotor} (hk : e.kind = .raw) :
    rotorSource rom e = { wiring := e.wire, notch := e.notch } := by
  simp only [rotorSource, hk]

/-- A named rotor is built from its ROM entry (42_rotor.md R134). -/
theorem rotorSource_of_named {rom : Roms} {e : StagedRotor} {r : RotorSpec} (hk : e.kind = .named)
    (hr : rom.rotors[e.name.toNat]? = some r) : rotorSource rom e = r := by
  simp only [rotorSource, hk, romRotor, hr, Option.getD_some]

section Built
variable {rom : Roms} {e : StagedRotor}

/-- A notch that is a letter is enabled (42_rotor.md R136). -/
theorem builtNotch_of_letter (h : isLetter (rotorSource rom e).notch = true) :
    builtNotchEn rom e = true ∧ i2l (builtNotchIdx rom e).val = (rotorSource rom e).notch := by
  rw [builtNotchIdx, if_pos h]
  exact ⟨h, i2l_letterIndex h⟩

/-- A notch that is no letter is disabled, with index 0 (42_rotor.md R136). -/
theorem builtNotch_of_nonletter (h : isLetter (rotorSource rom e).notch = false) :
    builtNotchEn rom e = false ∧ builtNotchIdx rom e = 0 :=
  ⟨h, if_neg (Bool.eq_false_iff.mp h)⟩

/-- The forward table spells out the wiring it is built from (42_rotor.md R134). -/
theorem i2l_builtFwd (hrom : RomsSound rom) (h : RotorSourceOk e) (i : Idx) :
    i2l (builtFwd rom e)[i].val = (rotorSource rom e).wiring[i] :=
  i2l_wiringIndices ((rotorSource_permutation hrom h).1 i)

end Built

/-- A raw reflector is built from its record (43_reflector.md R176). -/
theorem reflectorSource_of_raw (rom : Roms) {g : Staging} (hk : g.reflKind = .raw) :
    reflectorSource rom g = g.reflWire := by
  simp only [reflectorSource, hk]

/-- A named reflector is built from its ROM entry (43_reflector.md R176). -/
theorem reflectorSource_of_named {rom : Roms} {g : Staging} {w : Wiring} (hk : g.reflKind = .named)
    (hw : rom.reflectors[g.reflName.toNat]? = some w) : reflectorSource rom g = w := by
  simp only [reflectorSource, hk, romReflector, hw, Option.getD_some]

/-- Every named reflector's wiring consists of letters (43_reflector.md R171). -/
theorem standardRoms_reflector_letters {n : Nat} {w : Wiring} (hw : standardRoms.reflectors[n]? = some w) (i : Idx) :
    isLetter w[i] = true := by
  have hall : ∀ (n : Fin 3) (i : Idx), isLetter standardRoms.reflectors[n][i] = true := by decide +kernel
  obtain ⟨hn, rfl⟩ := Vector.getElem?_eq_some_iff.mp hw
  exact hall ⟨n, hn⟩ i

/-- The notch of a named rotor is a letter (42_rotor.md R136). -/
theorem notch_letter_of_named {rom : Roms} (hrom : RomsSound rom) {n : Nat} {r : RotorSpec}
    (hr : rom.rotors[n]? = some r) : isLetter r.notch = true := by
  obtain ⟨hn, rfl⟩ := Vector.getElem?_eq_some_iff.mp hr
  exact (hrom ⟨n, hn⟩).2

/-- Settles O24, field by field of what `commit_build` writes. -/
theorem commitBuildsMachine : Obligations.CommitBuildsMachine := by
  refine ⟨by decide, fun s hg => ?_⟩
  have ⟨_, hrotors, hrefl, _⟩ := hg
  refine ⟨_, exec_cfgCommit_of_committable hg, ⟨rfl, rfl, rfl⟩, rfl, rfl, fun k => ?_, fun hk i => ?_,
    fun w hk hw i => ?_, rfl⟩
  · obtain ⟨hsource, hpos⟩ := hrotors k
    have hfwd := i2l_builtFwd standardRoms_sound hsource
    have hnotch := builtNotch_of_letter (rom := standardRoms) (e := s.staging.rot[k])
    have hnone := builtNotch_of_nonletter (rom := standardRoms) (e := s.staging.rot[k])
    simp only [State.answered_active, State.answered_pos, committed, builtActive_ring, builtActive_fwd, builtActive_bwd,
      builtActive_notchEn, builtActive_notchIdx, builtPos_get]
    refine ⟨dvd_sub_ringOffset _, i2l_letterIndex hpos,
      getElem_fillInverse (builtFwd_injective standardRoms_sound hsource) _, fun hk => ?_, fun r hk hr => ?_⟩
    · rw [rotorSource_of_raw standardRoms hk] at hfwd hnotch hnone
      exact ⟨hfwd, hnotch, hnone⟩
    · rw [rotorSource_of_named hk hr] at hfwd hnotch
      exact ⟨hfwd, hnotch (notch_letter_of_named standardRoms_sound hr)⟩
  · have hletters : ∀ i : Idx, isLetter s.staging.reflWire[i] = true := by simpa only [ReflectorOk, hk] using hrefl
    rw [State.answered_active, committed, builtActive_refl, builtRefl, reflectorSource_of_raw standardRoms hk]
    exact i2l_wiringIndices (hletters i)
  · rw [State.answered_active, committed, builtActive_refl, builtRefl, reflectorSource_of_named hk hw]
    exact i2l_wiringIndices (standardRoms_reflector_letters hw i)

end Sys2Proof.Machine
end

section
/-! Reflectors (spec/43_reflector.md): the staging of a named and of a raw reflector. -/
namespace Sys2Proof.Machine

/-- Format F (30_encoding.md R71): below the name the word is 24 zero bits, which `encode` writes byte by byte. -/
theorem encode_cfgReflector (name : BitVec 3) : encode (.cfgReflector name) = 0x5#4 ++ 0#1 ++ name ++ 0#24 := by
  rw [encode, BitVec.append_assoc, BitVec.append_assoc]
  rfl

/-- Settles O13: the word is the command's own, and of the staging area the kind and the name are written. -/
theorem cfgReflectorStagesName : Obligations.CfgReflectorStagesName := by
  intro name s
  have hword : decode (0x5#4 ++ 0#1 ++ name ++ 0#24) = .ok (.cfgReflector name) :=
    encode_cfgReflector name ▸ decode_encode rfl
  exact ⟨_, execCfgReflector_eq name s, hword, ⟨rfl, rfl, rfl⟩, ⟨rfl, rfl, rfl⟩, rfl, rfl, rfl⟩

/-- Settles O14: the word is the command's own, and of the staging area the kind and the wiring are written. -/
theorem cfgReflectorRawStagesBufferCopy : Obligations.CfgReflectorRawStagesBufferCopy :=
  ⟨decode_encode (i := .cfgReflectorRaw) rfl, fun s =>
    ⟨_, execCfgReflectorRaw_eq s, ⟨rfl, rfl, rfl⟩, ⟨rfl, rfl, rfl⟩, rfl, fun _ => rfl, rfl⟩⟩

end Sys2Proof.Machine
end

section
/-! The stepper (spec/44_machine.md section 3): how the three rotors move, and the cycle they run through. -/
namespace Sys2Proof.Machine

/-! One step, rotor by rotor (44_machine.md R198). -/

theorem atNotch_iff (s : State) (k : Slot) :
    atNotch s k = true ↔ s.active.notchEn[k] = true ∧ s.pos[k] = s.active.notchIdx[k] := by
  rw [atNotch, Bool.and_eq_true, beq_iff_eq]

theorem stepRotors_left (s : State) :
    (stepRotors s).pos[0] = if atNotch s 1 = true then s.pos[0] + 1 else s.pos[0] := by
  simp only [stepRotors_pos]
  split_ifs <;> rfl

theorem stepRotors_middle (s : State) :
    (stepRotors s).pos[1] = if atNotch s 1 = true ∨ atNotch s 2 = true then s.pos[1] + 1 else s.pos[1] := by
  simp only [stepRotors_pos]
  by_cases hm : atNotch s 1 = true
  · simp [hm]
  · by_cases hr : atNotch s 2 = true <;> simp [hm, hr]

theorem stepRotors_right (s : State) : (stepRotors s).pos[2] = s.pos[2] + 1 := by
  simp only [stepRotors_pos]
  split_ifs <;> rfl

/-- Settles O30: a keypress moves the rotors as the stepper does. -/
theorem keypressStepsRotors : Obligations.KeypressStepsRotors := by
  intro c s hv hc
  have hmid := atNotch_iff s 1
  have hright := atNotch_iff s 2
  refine ⟨_, execEncodeChar_of_key hv hc, stepRotors_right s, fun hm => ?_, fun hm => ?_⟩
  · have hm' := hmid.mpr hm
    exact ⟨(stepRotors_left s).trans (if_pos hm'), (stepRotors_middle s).trans (if_pos (.inl hm'))⟩
  · have hm' := mt hmid.mp hm
    refine ⟨(stepRotors_left s).trans (if_neg hm'), fun hr => ?_, fun hr => ?_⟩
    · exact (stepRotors_middle s).trans (if_pos (.inr (hright.mpr hr)))
    · exact (stepRotors_middle s).trans (if_neg (not_or.mpr ⟨hm', mt hright.mp hr⟩))

/-- Settles O35: of the shapes of change that a command can have, only these write the positions. -/
theorem onlyKeypressesStep : Obligations.OnlyKeypressesStep := by
  intro i s t h hne
  obtain ⟨_, _, _, e⟩ | ⟨hi, _⟩ | ⟨hi, _⟩ | ⟨c, hi, _, hc, _⟩ | ⟨k, c, _, hi, _⟩ | ⟨_, _, _, _, e⟩ := exec_cases i s
  · cases e.symm.trans h; exact absurd rfl hne
  · exact .inl hi
  · exact .inl hi
  · exact .inr (.inr ⟨c, hi, hc⟩)
  · exact .inr (.inl ⟨k, c, hi⟩)
  · cases e.symm.trans h; exact absurd rfl hne

/-! Disabled notches (44_machine.md R202). -/

/-- ENCODE_CHAR moves the rotors exactly on a keypress with a machine (44_machine.md R200). -/
theorem exec_encodeChar_pos (c : Code) (s : State) :
    ∃ t, exec (.encodeChar c) s = .next t ∧ t.active = s.active
      ∧ t.pos = if s.cfgValid = true ∧ isKey c = true then (stepRotors s).pos else s.pos := by
  cases hv : s.cfgValid with
  | false => exact ⟨_, execEncodeChar_of_invalid hv c, rfl, by simp⟩
  | true =>
    cases hc : isKey c with
    | false => exact ⟨_, execEncodeChar_of_nonletter hv hc, rfl, by simp⟩
    | true => exact ⟨_, execEncodeChar_of_key hv hc, stepRotors_active s, by simp⟩

theorem atNotch_of_disabled {s : State} {k : Slot} (h : s.active.notchEn[k] = false) : ¬ atNotch s k = true :=
  fun hat => nomatch h.symm.trans ((atNotch_iff s k).mp hat).1

/-- With the middle notch disabled no text moves the left rotor. -/
theorem execAll_encodeStr_left (text : List Code) (s : State) :
    ∃ t, execAll (encodeStr text) s = .next t ∧ t.active = s.active
      ∧ (s.active.notchEn[1] = false → t.pos[0] = s.pos[0]) := by
  induction text generalizing s with
  | nil => exact ⟨s, rfl, rfl, fun _ => rfl⟩
  | cons c text ih =>
    obtain ⟨u, hu, hua, hupos⟩ := exec_encodeChar_pos c s
    obtain ⟨t, ht, hta, htleft⟩ := ih u
    refine ⟨t, (execAll_cons hu _).trans ht, hta.trans hua, fun hoff => ?_⟩
    rw [htleft (hua ▸ hoff)]
    simp only [hupos]
    split_ifs
    · exact (stepRotors_left s).trans (if_neg (atNotch_of_disabled (k := 1) hoff))
    · rfl

/-- Settles O34: a disabled notch is never reached, and the text is taken code by code. -/
theorem disabledNotchesCarryNothing : Obligations.DisabledNotchesCarryNothing := by
  refine ⟨fun c s _ hoff hmid => ?_, execAll_encodeStr_left⟩
  obtain ⟨t, ht, _, hpos⟩ := exec_encodeChar_pos c s
  refine ⟨t, ht, ?_⟩
  simp only [hpos]
  split_ifs
  · exact (stepRotors_middle s).trans
      (if_neg (not_or.mpr ⟨mt (atNotch_iff s 1).mp hmid, atNotch_of_disabled (k := 2) hoff⟩))
  · rfl

/-! The stepper with both notches enabled, in terms of how far the two rotors are past their notches. -/

/-- How many steps past its notch rotor `k` stands, modulo 26. -/
def notchOffset (s : State) (k : Slot) : Idx := s.pos[k] - s.active.notchIdx[k]

theorem atNotch_of_enabled {s : State} {k : Slot} (h : s.active.notchEn[k] = true) :
    atNotch s k = true ↔ notchOffset s k = 0 := by
  rw [atNotch_iff, and_iff_right h, notchOffset, sub_eq_zero]

/-- Both notches that drive the stepper are enabled (44_machine.md R201). -/
def NotchesEnabled (s : State) : Prop := s.active.notchEn[1] = true ∧ s.active.notchEn[2] = true

theorem onCycle_iff (s : State) :
    OnCycle s ↔ (notchOffset s 1 = 0 → notchOffset s 2 = 1) ∧ (notchOffset s 1 = 1 → notchOffset s 2 ≠ 1) := by
  have h0 : notchOffset s 1 = 0 ↔ s.pos[1] = s.active.notchIdx[1] := sub_eq_zero
  have h1 : notchOffset s 1 = 1 ↔ s.pos[1] = s.active.notchIdx[1] + 1 := sub_eq_iff_eq_add'
  have h2 : notchOffset s 2 = 1 ↔ s.pos[2] = s.active.notchIdx[2] + 1 := sub_eq_iff_eq_add'
  rw [h0, h1, ne_eq, h2, OnCycle, not_and_not_right, not_and]

theorem notchesEnabled_stepRotors {s : State} (h : NotchesEnabled s) : NotchesEnabled (stepRotors s) := by
  simpa only [NotchesEnabled, stepRotors_active] using h

theorem notchOffset_right_stepRotors (s : State) : notchOffset (stepRotors s) 2 = notchOffset s 2 + 1 := by
  simp only [notchOffset, stepRotors_active, Fin.getElem_fin]
  exact (congrArg (· - _) (stepRotors_right s)).trans (add_sub_right_comm _ _ _)

section NotchesEnabled
variable {s : State} (h : NotchesEnabled s)
include h

theorem stepRotors_left_of_enabled :
    (stepRotors s).pos[0] = if notchOffset s 1 = 0 then s.pos[0] + 1 else s.pos[0] := by
  obtain ⟨hmid, _⟩ := h
  simp only [stepRotors_left, atNotch_of_enabled (k := 1) hmid]

theorem notchOffset_middle_stepRotors :
    notchOffset (stepRotors s) 1
      = if notchOffset s 1 = 0 ∨ notchOffset s 2 = 0 then notchOffset s 1 + 1 else notchOffset s 1 := by
  obtain ⟨hmid, hright⟩ := h
  have hpos := stepRotors_middle s
  simp only [atNotch_of_enabled (k := 1) hmid, atNotch_of_enabled (k := 2) hright] at hpos
  have hoff : notchOffset (stepRotors s) 1 = (stepRotors s).pos[1] - s.active.notchIdx[1] := by
    rw [← stepRotors_active]; rfl
  rw [hoff, hpos, apply_ite (· - _)]
  simp only [add_sub_right_comm]
  rfl

/-- After a step the two rotors are never both at their notches: the right one leaves its notch, unless it has just
carried the middle one. -/
theorem notchOffset_right_ne_zero_stepRotors (hmid : notchOffset (stepRotors s) 1 = 0) :
    notchOffset (stepRotors s) 2 ≠ 0 := by
  rw [notchOffset_middle_stepRotors h] at hmid
  rw [notchOffset_right_stepRotors]
  intro hright
  have h2 : notchOffset s 2 ≠ 0 := fun h0 => by simp [h0] at hright
  by_cases h0 : notchOffset s 1 = 0
  · simp [h0] at hmid
  · simp [h0, h2] at hmid

/-- A step ends on the cycle, unless it starts with both rotors at their notches. -/
theorem onCycle_stepRotors (hs : notchOffset s 1 = 0 → notchOffset s 2 ≠ 0) : OnCycle (stepRotors s) := by
  rw [onCycle_iff, notchOffset_middle_stepRotors h, notchOffset_right_stepRotors]
  by_cases h0 : notchOffset s 1 = 0
  · simpa [h0] using hs h0
  · by_cases h2 : notchOffset s 2 = 0
    · simp [h2, h0]
    · simp [h2, h0]

end NotchesEnabled

/-- On the cycle the two rotors are never both at their notches. -/
theorem stepRotors_keeps_onCycle {s : State} (h : NotchesEnabled s) (hs : OnCycle s) : OnCycle (stepRotors s) :=
  onCycle_stepRotors h fun h0 => by rw [((onCycle_iff s).mp hs).1 h0]; decide

/-- Settles O32: only both rotors at their notches lead off the cycle, and neither a step nor the cycle ends there. -/
theorem twoKeypressesReachTheCycle : Obligations.TwoKeypressesReachTheCycle := by
  intro s hmid hright
  have h : NotchesEnabled s := ⟨hmid, hright⟩
  exact ⟨onCycle_stepRotors (notchesEnabled_stepRotors h) (notchOffset_right_ne_zero_stepRotors h),
    stepRotors_keeps_onCycle h⟩

/-- The rotor positions after a step with both notches enabled, at `m` and `r` (44_machine.md R198). -/
def turned (m r : Idx) (p : Vector Idx 3) : Vector Idx 3 :=
  if p[1] = m then #v[p[0] + 1, p[1] + 1, p[2] + 1]
  else if p[2] = r then #v[p[0], p[1] + 1, p[2] + 1]
  else #v[p[0], p[1], p[2] + 1]

/-- A machine with the notches of its middle and right rotors enabled, at `m` and `r`, stands at positions `p`. -/
structure StandsAt (m r : Idx) (p : Vector Idx 3) (s : State) : Prop where
  running : s.cfgValid = true
  enabled : NotchesEnabled s
  middle : s.active.notchIdx[1] = m
  right : s.active.notchIdx[2] = r
  pos_eq : s.pos = p

theorem exec_key_standsAt {c : Code} (hc : isKey c = true) {m r : Idx} {p : Vector Idx 3} {s : State}
    (h : StandsAt m r p s) : ∃ t, exec (.encodeChar c) s = .next t ∧ StandsAt m r (turned m r p) t := by
  obtain ⟨hv, ⟨hmid, hright⟩, rfl, rfl, rfl⟩ := h
  obtain ⟨t, ht, ha, hpos⟩ := exec_encodeChar_pos c s
  obtain ⟨hvt, _⟩ := exec_keeps_machine ht nofun
  have hm := (atNotch_iff s 1).trans (and_iff_right hmid)
  have hr := (atNotch_iff s 2).trans (and_iff_right hright)
  rw [if_pos ⟨hv, hc⟩, stepRotors_pos] at hpos
  simp only [hm, hr] at hpos
  exact ⟨t, ht, hvt.trans hv, by rw [NotchesEnabled, ha]; exact ⟨hmid, hright⟩, by rw [ha], by rw [ha], hpos⟩

/-- Settles O31: the first step carries the middle rotor onto its notch, from which the second moves it on. -/
theorem doubleStep : Obligations.DoubleStep := by
  refine ⟨fun c d s hv hc hd hmid hright hm hr => ?_, fun c s hv hc hmid hright hm hr hp => ?_⟩
  · have hfirst : turned (s.pos[1] + 1) s.pos[2] s.pos = #v[s.pos[0], s.pos[1] + 1, s.pos[2] + 1] := by
      simp [turned]
    have hsecond : turned (s.pos[1] + 1) s.pos[2] #v[s.pos[0], s.pos[1] + 1, s.pos[2] + 1]
        = #v[s.pos[0] + 1, s.pos[1] + 2, s.pos[2] + 2] := by
      simp [turned, add_assoc]
    obtain ⟨t, ht, hst⟩ := exec_key_standsAt hc (s := s) ⟨hv, ⟨hmid, hright⟩, hm, hr.symm, rfl⟩
    rw [hfirst] at hst
    obtain ⟨u, hu, hsu⟩ := exec_key_standsAt hd hst
    refine ⟨t, u, ht, hu, ?_⟩
    simp [hst.pos_eq, hsu.pos_eq, hsecond]
  · obtain ⟨t1, ht1, hs1⟩ := exec_key_standsAt hc (s := s) ⟨hv, ⟨hmid, hright⟩, hm, hr, hp⟩
    obtain ⟨t2, ht2, hs2⟩ := exec_key_standsAt hc hs1
    obtain ⟨t3, ht3, hs3⟩ := exec_key_standsAt hc hs2
    obtain ⟨t4, ht4, hs4⟩ := exec_key_standsAt hc hs3
    exact ⟨t1, t2, t3, t4, ht1, ht2, ht3, ht4, hs1.pos_eq.trans (by decide), hs2.pos_eq.trans (by decide),
      hs3.pos_eq.trans (by decide), hs4.pos_eq.trans (by decide)⟩

/-! The cycle (44_machine.md R201). -/

theorem val_add_one_idx (x : Idx) : (x + 1).val = (x.val + 1) % 26 := by rw [Fin.val_add]; rfl

theorem val_sub_one_idx (x : Idx) : (x - 1).val = (x.val + 25) % 26 := by rw [Fin.val_sub, Nat.add_comm]; rfl

/-- How far along the cycle the left rotor at `left` and the others `mid` and `right` past their notches stand: a turn
of the left rotor holds 25 rounds of the right rotor, and a round starts with the right rotor one past its notch. A
turn starts with the middle rotor at its notch, from where the first step moves the left rotor on. -/
def phaseAt (left mid right : Idx) : Nat :=
  650 * (if mid = 0 then left else left - 1).val + 26 * (mid.val - 1) + (right - 1).val

theorem phaseAt_lt (left mid right : Idx) : phaseAt left mid right < 16900 := by
  rw [phaseAt]
  omega

/-- The step that starts a turn. -/
theorem phaseAt_of_middle_atNotch (left : Idx) : phaseAt (left + 1) 1 (1 + 1) = phaseAt left 0 1 + 1 := by
  simp [phaseAt]

/-- The step that starts a round, and after 25 of them a turn. -/
theorem phaseAt_of_right_atNotch (left : Idx) {mid : Idx} (h : mid ≠ 0) :
    phaseAt left (mid + 1) (0 + 1) = (phaseAt left mid 0 + 1) % 16900 := by
  have hleft := val_sub_one_idx left
  have hmid := val_add_one_idx mid
  have hpos : mid.val ≠ 0 := Fin.val_ne_of_ne h
  have h25 : (0 - 1 : Idx).val = 25 := rfl
  simp only [phaseAt, if_neg h, zero_add, sub_self, Fin.val_zero, h25]
  by_cases hlast : mid + 1 = 0
  · have hzero : (mid + 1).val = 0 := congrArg Fin.val hlast
    rw [if_pos hlast]
    omega
  · have hzero : (mid + 1).val ≠ 0 := Fin.val_ne_of_ne hlast
    rw [if_neg hlast]
    omega

/-- Every other step. -/
theorem phaseAt_of_none_atNotch (left : Idx) {mid right : Idx} (hmid : mid ≠ 0) (hright : right ≠ 0) :
    phaseAt left mid (right + 1) = phaseAt left mid right + 1 := by
  have hpred := val_sub_one_idx right
  have hpos : right.val ≠ 0 := Fin.val_ne_of_ne hright
  simp only [phaseAt, if_neg hmid, add_sub_cancel_right]
  omega

/-- On the cycle no two places have the same phase. -/
theorem phaseAt_injective {left mid right left' mid' right' : Idx}
    (hc : (mid = 0 → right = 1) ∧ (mid = 1 → right ≠ 1)) (hc' : (mid' = 0 → right' = 1) ∧ (mid' = 1 → right' ≠ 1))
    (h : phaseAt left mid right = phaseAt left' mid' right') : left = left' ∧ mid = mid' ∧ right = right' := by
  simp only [phaseAt] at h
  obtain rfl : right = right' := sub_left_injective (b := (1 : Idx)) (Fin.ext (by dsimp only; omega))
  have hround : mid.val - 1 = mid'.val - 1 := by omega
  simp only [ne_eq, Fin.ext_iff, Fin.val_zero, Fin.val_one] at hc hc'
  obtain rfl : mid = mid' := Fin.ext (by omega)
  refine ⟨?_, rfl, rfl⟩
  split_ifs at h
  · exact Fin.ext (by omega)
  · exact sub_left_injective (b := (1 : Idx)) (Fin.ext (by dsimp only; omega))

/-- Where on the cycle a state stands. -/
def cyclePhase (s : State) : Nat := phaseAt s.pos[0] (notchOffset s 1) (notchOffset s 2)

theorem cyclePhase_stepRotors {s : State} (h : NotchesEnabled s) (hs : OnCycle s) :
    cyclePhase (stepRotors s) = (cyclePhase s + 1) % 16900 := by
  have hlt := phaseAt_lt (stepRotors s).pos[0] (notchOffset (stepRotors s) 1) (notchOffset (stepRotors s) 2)
  rw [cyclePhase, cyclePhase]
  rw [stepRotors_left_of_enabled h, notchOffset_middle_stepRotors h, notchOffset_right_stepRotors] at hlt ⊢
  by_cases h0 : notchOffset s 1 = 0
  · have h1 := ((onCycle_iff s).mp hs).1 h0
    simp only [h0, h1, true_or, if_true, zero_add] at hlt ⊢
    rw [phaseAt_of_middle_atNotch] at hlt ⊢
    exact (Nat.mod_eq_of_lt hlt).symm
  · by_cases h2 : notchOffset s 2 = 0
    · simp only [h0, h2, or_true, if_true, if_false]
      exact phaseAt_of_right_atNotch _ h0
    · simp only [h0, h2, or_false, if_false] at hlt ⊢
      rw [phaseAt_of_none_atNotch _ h0 h2] at hlt ⊢
      exact (Nat.mod_eq_of_lt hlt).symm

/-- From a state on the cycle, `n` steps stay on it and go `n` places further. -/
theorem cyclePhase_iterate {s : State} (h : NotchesEnabled s) (hs : OnCycle s) (n : Nat) :
    (stepRotors^[n] s).active = s.active ∧ OnCycle (stepRotors^[n] s)
      ∧ cyclePhase (stepRotors^[n] s) = (cyclePhase s + n) % 16900 := by
  induction n with
  | zero => exact ⟨rfl, hs, (Nat.mod_eq_of_lt (phaseAt_lt _ _ _)).symm⟩
  | succ n ih =>
    obtain ⟨ha, hcycle, hphase⟩ := ih
    have hn : NotchesEnabled (stepRotors^[n] s) := by simpa only [NotchesEnabled, ha] using h
    rw [Function.iterate_succ_apply']
    refine ⟨(stepRotors_active _).trans ha, stepRotors_keeps_onCycle hn hcycle, ?_⟩
    rw [cyclePhase_stepRotors hn hcycle, hphase, Nat.mod_add_mod, Nat.add_assoc]

/-- Two states on the cycle of one configuration have the same positions exactly when they are at the same place. -/
theorem pos_eq_iff_cyclePhase_eq {s q : State} (hs : OnCycle s) (hq : OnCycle q) (ha : q.active = s.active) :
    q.pos = s.pos ↔ cyclePhase q = cyclePhase s := by
  refine ⟨fun h => by simp only [cyclePhase, notchOffset, h, ha], fun h => ?_⟩
  obtain ⟨hleft, hmid, hright⟩ := phaseAt_injective ((onCycle_iff q).mp hq) ((onCycle_iff s).mp hs) h
  simp only [notchOffset, ha, sub_left_inj] at hmid hright
  have hall : ∀ k : Slot, q.pos[k] = s.pos[k] := forall_slot.mpr ⟨hleft, hmid, hright⟩
  exact Vector.ext fun k hk => hall ⟨k, hk⟩

/-- Settles O33: a step moves the place on the cycle on by one, modulo 16900, and the place determines the positions. -/
theorem stepperCycleHasPeriod16900 : Obligations.StepperCycleHasPeriod16900 := by
  intro s hmid hright hs
  have hiter := cyclePhase_iterate ⟨hmid, hright⟩ hs
  refine ⟨fun n => ?_, fun q ha hq => ?_⟩
  · obtain ⟨han, hsn, hphase⟩ := hiter n
    have hlt : cyclePhase s < 16900 := phaseAt_lt _ _ _
    rw [pos_eq_iff_cyclePhase_eq hs hsn han, hphase]
    omega
  · have hlt : cyclePhase s < 16900 := phaseAt_lt _ _ _
    have hltq : cyclePhase q < 16900 := phaseAt_lt _ _ _
    obtain ⟨n, hn, hdist⟩ : ∃ n, n < 16900 ∧ (cyclePhase s + n) % 16900 = cyclePhase q :=
      ⟨(cyclePhase q + (16900 - cyclePhase s)) % 16900, by omega, by omega⟩
    obtain ⟨han, hsn, hphase⟩ := hiter n
    refine ⟨n, hn, ?_⟩
    rw [pos_eq_iff_cyclePhase_eq hq hsn (han.trans ha.symm), hphase, hdist]

end Sys2Proof.Machine
end

section
/-! The machine-level commands (spec/44_machine.md): CFG_CLEAR, a failed CFG_COMMIT, RESTART, SET_POSITION and
READ_STATE. -/
namespace Sys2Proof.Machine

/-! CFG_CLEAR and READ_STATE (44_machine.md R191, R212). -/

/-- Settles O9, field by field of the cleared staging area. -/
theorem cfgClearEmptiesStaging : Obligations.CfgClearEmptiesStaging := by
  refine ⟨decode_encode (i := .cfgClear) rfl, fun s => ⟨_, execCfgClear_eq s, ⟨rfl, rfl, rfl⟩, ⟨rfl, rfl, rfl⟩, rfl,
    fun k => ?_, rfl, rfl, fun i => ?_, fun i => ?_, rfl, fun i => ?_⟩⟩
  all_goals simp [Staging.cleared, StagedRotor.blank, blankWiring, identityTable]

theorem toNat_append_eq {m n : Nat} (a : BitVec m) (b : BitVec n) : (a ++ b).toNat = a.toNat * 2 ^ n + b.toNat := by
  rw [BitVec.toNat_append, ← Nat.shiftLeft_add_eq_or_of_lt b.isLt, Nat.shiftLeft_eq]

theorem toNat_idxBits (i : Idx) : (idxBits i).toNat = i.val := by
  rw [idxBits, BitVec.toNat_ofNat]
  omega

theorem toNat_responseWord_ok (data : BitVec 16) : (responseWord .ok data).toNat = data.toNat := by
  rw [responseWord, toNat_append_eq]
  exact Nat.zero_add _

/-- The four fields of the state summary stand side by side (44_machine.md R212). -/
theorem toNat_stateSummary (s : State) :
    (stateSummary s).toNat
      = (if s.cfgValid = true then 32768 else 0) + 1024 * s.pos[0].val + 32 * s.pos[1].val + s.pos[2].val := by
  have hbit : (BitVec.ofBool s.cfgValid).toNat * 32768 = if s.cfgValid = true then 32768 else 0 := by
    cases s.cfgValid with
    | false | true => rfl
  rw [← hbit]
  simp only [stateSummary, toNat_append_eq, toNat_idxBits]
  omega

theorem exec_readState_reports (s : State) :
    ∃ r, exec .readState s = .next { s with responses := s.responses ++ [r] }
      ∧ r.toNat = (if s.cfgValid = true then 32768 else 0) + 1024 * s.pos[0].val + 32 * s.pos[1].val + s.pos[2].val :=
  ⟨_, execReadState_eq s, (toNat_responseWord_ok _).trans (toNat_stateSummary s)⟩

/-- Settles O45, from the lemma on the state summary. -/
theorem readStateReportsPositions : Obligations.ReadStateReportsPositions :=
  ⟨decode_encode (i := .readState) rfl, exec_readState_reports⟩

/-! A failed CFG_COMMIT (44_machine.md R195). -/

/-- Settles O23: the checks fail, so `cfg_valid` alone is written, and READ_STATE reads the positions that stayed. -/
theorem failedCommitDisablesMachine : Obligations.FailedCommitDisablesMachine := by
  intro s hg
  have hne := mt (validate_eq_ok standardRoms s.staging).mp hg
  refine ⟨_, _, commit_of_ne hne, hne, rfl, fun c => execEncodeChar_of_invalid rfl c, ?_⟩
  obtain ⟨r, hread, hr⟩ := exec_readState_reports
    (State.answered { s with cfgValid := false } (validate standardRoms s.staging) 0#16)
  exact ⟨_, r, hread, ⟨rfl, rfl, rfl⟩, by simpa using hr⟩

/-! RESTART (44_machine.md R209). -/

/-- Commands that do not stage leave the staging area as it is (10_state.md R31). -/
theorem stagingAfter_of_not_isStaging {is : List Instr} (h : ∀ i ∈ is, isStaging i = false) (g : Staging) :
    stagingAfter is g = g := by
  induction is with
  | nil => rfl
  | cons i is ih =>
    obtain ⟨hi, his⟩ := List.forall_mem_cons.mp h
    exact (congrArg (stagingAfter is) (nextStaging_of_not_isStaging hi g)).trans (ih his)

/-- Settles O26: the commands between the two commits leave the staging area, from which the second one builds. -/
theorem restartRebuildsTheMachine : Obligations.RestartRebuildsTheMachine := by
  intro s t is hg ht his
  have hquiet : ∀ i ∈ is, isStaging i = false := fun i hi => by
    obtain ⟨c, rfl⟩ | ⟨k, c, rfl⟩ | rfl := his i hi <;> rfl
  cases (exec_cfgCommit_of_committable hg).symm.trans ht
  obtain ⟨u, hu, hstg, _⟩ := execAll_staging is ((committed s).answered .ok 0#16)
  rw [stagingAfter_of_not_isStaging hquiet, State.answered_staging, committed_staging] at hstg
  obtain ⟨hpos, hv, ha⟩ := committed_machineUnmoved hg hstg
  exact ⟨u, _, hu, exec_cfgCommit_of_committable (hstg ▸ hg), hpos, hv, ha, hstg⟩

/-! SET_POSITION (44_machine.md R210). -/

/-- Format S (30_encoding.md R71): above the symbol the word has 16 zero bits, which `encode` writes byte by byte. -/
theorem encode_setPosition (slot : BitVec 2) (sym : Code) :
    encode (.setPosition slot sym) = 0xA#4 ++ 0#2 ++ slot ++ 0#16 ++ sym := by
  rw [encode, BitVec.append_assoc (x₂ := 0#8) (x₃ := 0#8)]
  rfl

/-- Settles O44: the word of slot 3 is ILLEGAL, and of the others each outcome is a branch of SET_POSITION. -/
theorem setPositionOverwritesOneRotor : Obligations.SetPositionOverwritesOneRotor := by
  intro slot sym s
  rw [← encode_setPosition]
  refine ⟨fun h rest hp => ?_, fun h => decode_encode (decide_eq_true h), fun h hv => execSetPosition_of_invalid h hv sym,
    fun h hv hc => execSetPosition_of_nonletter h hv hc, fun h hv hc => ?_⟩
  · have hill : IllegalWord (encode (.setPosition slot sym)) :=
      (illegalWord_encode_iff _).mpr (decide_eq_false (not_not.mpr h))
    exact illegalWordsChangeNothing.2 _ s rest hill hp
  · obtain ⟨hlt, _⟩ := slotOf_of_ne h
    refine ⟨_, execSetPosition_of_letter hlt hv hc, ⟨rfl, rfl, rfl⟩, rfl, rfl, rfl, fun k => ⟨fun hk => ?_, fun hk => ?_⟩⟩
    · simp only [State.answered_pos, Fin.getElem_fin, hk, Vector.getElem_set_self]
      exact i2l_letterIndex hc
    · exact Vector.getElem_set_ne hlt k.isLt (Ne.symm hk)

end Sys2Proof.Machine
end

section
/-! The encode pipeline (spec/44_machine.md section 4): the outcomes of ENCODE_CHAR, non-letters among a text, and the
keypress permutation. -/
namespace Sys2Proof.Machine

/-! ENCODE_CHAR (44_machine.md R203 to R207). -/

/-- Format C (30_encoding.md R71): above the symbol the word has 20 zero bits, which `encode` writes in three fields. -/
theorem encode_encodeChar (c : Code) : encode (.encodeChar c) = 0x9#4 ++ 0#20 ++ c := rfl

/-- An OK response that carries a code is the code as a number (30_encoding.md R72). -/
theorem responseWord_ok_zext16 (c : Code) : responseWord .ok (zext16 c) = BitVec.ofNat 32 c.toNat := by
  apply BitVec.eq_of_toNat_eq
  rw [toNat_responseWord_ok, zext16, BitVec.toNat_setWidth, BitVec.toNat_ofNat]
  omega

theorem toNat_i2l_idx (i : Idx) : (i2l i.val).toNat = 0x41 + i.val := by
  have h := toNat_i2l i.val
  omega

/-- A code that is the letter of an index after `upcase` is a keypress of that index. -/
theorem isKey_of_i2l {c : Code} {x : Idx} (h : i2l x.val = upcase c) : isKey c = true ∧ letterIndex (upcase c) = x := by
  rw [isKey, ← h]
  exact ⟨isLetter_i2l x, letterIndex_i2l x⟩

/-- Settles O37: each outcome is a branch of ENCODE_CHAR, and each pass a table conjugated by its shift. -/
theorem encodeCharRunsThePipeline : Obligations.EncodeCharRunsThePipeline := by
  intro c s
  refine ⟨encode_encodeChar c ▸ decode_encode rfl, fun hv => execEncodeChar_of_invalid hv c, fun hv hc => ?_,
    fun x hv hx => ?_⟩
  · rw [← responseWord_ok_zext16]
    exact execEncodeChar_of_nonletter hv hc
  · obtain ⟨hc, hidx⟩ := isKey_of_i2l hx
    have hexec := execEncodeChar_of_key hv hc
    rw [hidx] at hexec
    refine ⟨_, hexec, rfl, stepRotors_cfgValid s, stepRotors_active s, stepRotors_staging s, ?_⟩
    have hanswer := answered_stepRotors s .ok (zext16 (i2l (keypress (stepRotors s) x).val))
    rw [responseWord_ok_zext16, toNat_i2l_idx] at hanswer
    simp only [keypress, swap, reflect, rotorForwardPass, rotorBackwardPass, rotorPass_eq, stepRotors_active]
      at hanswer ⊢
    exact hanswer

/-- Settles O39: `upcase` does nothing more to its own result, and the response is a letter. -/
theorem outputIsUppercase : Obligations.OutputIsUppercase := by
  intro c s hv hc
  have hc' : isKey (upcase c) = true := by rwa [isKey, upcase_upcase]
  have hsame := execEncodeChar_of_key hv hc'
  rw [upcase_upcase] at hsame
  refine ⟨(execEncodeChar_of_key hv hc).trans hsame.symm, _, _, execEncodeChar_of_key hv hc, answered_stepRotors s _ _, ?_⟩
  rw [responseWord_ok_zext16, toNat_i2l_idx, BitVec.toNat_ofNat]
  omega

/-! Non-letters among a text (44_machine.md R206). -/

/-- From the same block, a text and its letters alone leave the same block and give the letters the same responses. -/
theorem execAll_encodeStr_filter (text : List Code) {s s' : State} (h : SameBlock s s') (hv : s.cfgValid = true) :
    ∃ t u outs outs', execAll (encodeStr text) s = .next t ∧ execAll (encodeStr (text.filter isKey)) s' = .next u
      ∧ t.responses = s.responses ++ outs ∧ u.responses = s'.responses ++ outs' ∧ SameBlock t u
      ∧ (((text.zip outs).filter fun p => isKey p.1).map Prod.snd) = outs' := by
  induction text generalizing s s' with
  | nil => exact ⟨s, s', [], [], rfl, rfl, (List.append_nil _).symm, (List.append_nil _).symm, h, rfl⟩
  | cons c text ih =>
    cases hc : isKey c with
    | false =>
      obtain ⟨t, u, outs, outs', ht, hu, hr, hr', hsame, hkept⟩ := ih (s := s.answered .ok (zext16 c)) h hv
      refine ⟨t, u, responseWord .ok (zext16 c) :: outs, outs',
        (execAll_cons (i := .encodeChar c) (execEncodeChar_of_nonletter hv hc) _).trans ht, ?_, by simp [hr], hr', hsame,
        by simpa [hc] using hkept⟩
      rwa [List.filter_cons_of_neg (by simp [hc])]
    | true =>
      obtain ⟨v, v', w, hexec, hexec', hsame, ⟨hw, _⟩, hw', _⟩ := exec_sameBlock (.encodeChar c) h
      have hon : v.cfgValid = true := (exec_keeps_machine hexec nofun).1.trans hv
      obtain ⟨t, u, outs, outs', ht, hu, hr, hr', hsame', hkept⟩ := ih hsame hon
      refine ⟨t, u, w :: outs, w :: outs', (execAll_cons hexec _).trans ht, ?_, by simp [hr, hw], by simp [hr', hw'],
        hsame', by simp [hc, hkept]⟩
      rw [List.filter_cons_of_pos hc]
      exact (execAll_cons hexec' _).trans hu

/-- Settles O38, from one state as both. -/
theorem nonLettersChangeNoCiphertext : Obligations.NonLettersChangeNoCiphertext :=
  fun text s hv => execAll_encodeStr_filter text (s := s) (s' := s) ⟨rfl, rfl, rfl, rfl⟩ hv

/-! The keypress permutation (44_machine.md R204, R209, R211). -/

/-- Settles O41, from `keypress_keypress`. -/
theorem keypressPermutationIsInvolution : Obligations.KeypressPermutationIsInvolution :=
  fun _ x ⟨_, hgood⟩ hv hrefl => keypress_keypress ⟨hv, hgood hv, hrefl⟩ x

/-- The way in to the reflector: the plugboard and the passes of the right, the middle and the left rotor. -/
def inward (s : State) (x : Idx) : Idx :=
  rotorForwardPass s 0 (rotorForwardPass s 1 (rotorForwardPass s 2 (swap s x)))

/-- The keypress permutation is the reflector, conjugated by the way in (44_machine.md R211). -/
theorem inward_keypress {s : State} (h : s.active.Good) (x : Idx) :
    inward s (keypress s x) = reflect s (inward s x) := by
  obtain ⟨htables, hplug, _⟩ := h
  have hswap (y : Idx) : swap s (swap s y) = y := hplug y
  have hforth (k : Slot) (y : Idx) : rotorForwardPass s k (rotorBackwardPass s k y) = y :=
    rotorPass_rotorPass (htables k).2 _ _ y
  simp only [inward, keypress, hswap, hforth]

/-- A fixed point of the keypress permutation would be one of the reflector. -/
theorem keypress_ne {s : State} (h : s.active.Good) (hrefl : NoFixedPoint s.active.refl) (x : Idx) :
    keypress s x ≠ x := by
  intro hfix
  have hconj := inward_keypress h x
  rw [hfix] at hconj
  exact hrefl (inward s x) hconj.symm

/-- Settles O42: the response carries the letter of another index. -/
theorem noLetterEncodesToItself : Obligations.NoLetterEncodesToItself := by
  intro c s ⟨_, hgood⟩ hv hrefl hc
  refine ⟨_, _, execEncodeChar_of_key hv hc, answered_stepRotors s _ _, fun hcode => ?_⟩
  rw [responseCode_zext16] at hcode
  have hstay : keypress (stepRotors s) (letterIndex (upcase c)) = letterIndex (upcase c) := (isKey_of_i2l hcode).2.symm
  exact keypress_ne (s := stepRotors s) (by simpa using hgood hv) (by simpa using hrefl) _ hstay

end Sys2Proof.Machine
end

section
/-! Errors and idling (spec/60_exceptions.md): every step answers, a step with nothing presented holds the state, and a
command that reports an error leaves the block as it was. -/
namespace Sys2Proof.Machine

/-- Settles O46: it is `step_answers`. -/
theorem everyStepAnswers : Obligations.EveryStepAnswers := step_answers

/-- With nothing presented, nothing is run, whatever the commands would do (60_exceptions.md R265). -/
theorem stepWith_of_idle (run : Instr → State → Result) {s : State} (h : s.pending = []) :
    stepWith run s = .next s := by
  simp only [stepWith, h]

/-- Settles O54, from the step's first arm. -/
theorem idleHoldsState : Obligations.IdleHoldsState := fun _ h => stepWith_of_idle exec h

/-! A command that reports a non-OK status (60_exceptions.md R256). -/

/-- A response that is the one of an OK command has status 0. -/
theorem responseStatus_of_answered_ok {l : List Word} {data : BitVec 16} {r : Word}
    (h : l ++ [responseWord .ok data] = l ++ [r]) : responseStatus r = 0#8 := by
  obtain rfl : responseWord .ok data = r := by simpa using h
  exact responseStatus_responseWord .ok data

/-- The one error among the staging commands is CFG_WIRE's index, and it stages nothing (30_encoding.md R77). -/
theorem exec_isStaging_ok_or_unchanged {i : Instr} (h : isStaging i = true) (s : State) :
    (∃ g, exec i s = .next (State.answered { s with staging := g } .ok 0#16))
      ∨ exec i s = .next (s.answered .illegalCommand 0#16) := by
  cases i with
  | cfgWire index sym =>
    by_cases hlt : index.toNat < 26
    · exact .inl ⟨_, execCfgWire_of_le hlt sym s⟩
    · exact .inr (execCfgWire_of_gt hlt sym s)
  | cfgClear => exact .inl ⟨_, execCfgClear_eq s⟩
  | cfgRotor name ring pos => exact .inl ⟨_, execCfgRotor_eq name ring pos s⟩
  | cfgRotorRaw ring pos notch => exact .inl ⟨_, execCfgRotorRaw_eq ring pos notch s⟩
  | cfgReflector name => exact .inl ⟨_, execCfgReflector_eq name s⟩
  | cfgReflectorRaw => exact .inl ⟨_, execCfgReflectorRaw_eq s⟩
  | cfgPlug a b => exact .inl ⟨_, execCfgPlug_eq a b s⟩
  | cfgCommit | encodeChar | setPosition | readState => cases h

/-- Every command but CFG_COMMIT answers OK or delivers its response and does nothing else. -/
theorem exec_ok_or_unchanged {i : Instr} (hi : i ≠ .cfgCommit) (s : State) :
    (∃ t data, exec i s = .next t ∧ t.responses = s.responses ++ [responseWord .ok data])
      ∨ ∃ st data, exec i s = .next (s.answered st data) := by
  obtain ⟨_, _, hstg, _⟩ | ⟨hc, _⟩ | ⟨hc, _⟩ | ⟨_, _, _, _, e⟩ | ⟨_, _, _, _, _, e⟩ | ⟨st, data, _, _, e⟩ := exec_cases i s
  · obtain ⟨_, e⟩ | e := exec_isStaging_ok_or_unchanged hstg s
    · exact .inl ⟨_, _, e, rfl⟩
    · exact .inr ⟨_, _, e⟩
  · exact absurd hc hi
  · exact absurd hc hi
  · exact .inl ⟨_, _, e, (answered_stepRotors s _ _).1⟩
  · exact .inl ⟨_, _, e, rfl⟩
  · exact .inr ⟨st, data, e⟩

section Error
variable {s t : State} {r : Word} (hr : t.responses = s.responses ++ [r]) (herr : responseStatus r ≠ 0#8)
include hr herr

theorem exec_sameBlock_of_error {i : Instr} (hi : i ≠ .cfgCommit) (ht : exec i s = .next t) : SameBlock s t := by
  obtain ⟨u, data, e, hu⟩ | ⟨st, data, e⟩ := exec_ok_or_unchanged hi s
  · cases e.symm.trans ht
    exact absurd (responseStatus_of_answered_ok (hu.symm.trans hr)) herr
  · cases e.symm.trans ht
    exact ⟨rfl, rfl, rfl, rfl⟩

/-- A CFG_COMMIT that reports an error has failed its checks (44_machine.md R195). -/
theorem execCfgCommit_of_error (ht : exec .cfgCommit s = .next t) :
    t.cfgValid = false ∧ t.pos = s.pos ∧ t.active = s.active ∧ t.staging = s.staging := by
  by_cases hok : validate standardRoms s.staging = .ok
  · cases (commit_of_ok hok).symm.trans ht
    exact absurd (responseStatus_of_answered_ok hr) herr
  · cases (commit_of_ne hok).symm.trans ht
    exact ⟨rfl, rfl, rfl, rfl⟩

end Error

/-- Settles O48: the word is CFG_COMMIT's, another command's, or ILLEGAL; and the pair AA is invalid but answered OK. -/
theorem errorsChangeNothing : Obligations.ErrorsChangeNothing := by
  refine ⟨fun s t w rest r hp ht hr herr => ⟨fun hw => ?_, fun hw => ?_⟩,
    fun a b s => ⟨_, execCfgPlug_eq a b s, rfl, rfl, rfl⟩, _, execCfgPlug_eq _ _ _, by decide⟩
  · obtain ⟨i, hd, _, hi, _⟩ | ⟨_, hill⟩ := decode_cases w
    · have hne : i ≠ .cfgCommit := fun h => hw (hi.symm.trans (congrArg encode h))
      have hexec := (stepRunsTheDecodedCommand s w rest i hp hd).symm.trans ht
      exact exec_sameBlock_of_error (s := { s with pending := rest }) hr herr hne hexec
    · cases (illegalWordsChangeNothing.2 w s rest hill hp).symm.trans ht
      exact ⟨rfl, rfl, rfl, rfl⟩
  · have hd : decode w = .ok .cfgCommit := hw ▸ decode_encode (i := .cfgCommit) rfl
    have hexec := (stepRunsTheDecodedCommand s w rest _ hp hd).symm.trans ht
    exact execCfgCommit_of_error (s := { s with pending := rest }) hr herr hexec

end Sys2Proof.Machine
end

section
/-! The reset input (spec/70_reset_and_hazards.md section 1): between commands, and with a command in flight. -/
namespace Sys2Proof.Machine

/-- A word does the same to two states with the same block and draws the same response from them, as its command or
ILLEGAL_COMMAND does (44_machine.md R213, R214). -/
theorem runWord_sameBlock (w : Word) {s s' : State} (h : SameBlock s s') :
    ∃ t t' r, runWord exec w s = .next t ∧ runWord exec w s' = .next t' ∧ SameBlock t t'
      ∧ Answered s t r ∧ Answered s' t' r := by
  unfold runWord
  split
  · next i _ => exact exec_sameBlock i h
  · exact ⟨_, _, responseWord .illegalCommand 0#16, rfl, rfl, h, ⟨rfl, rfl, rfl⟩, rfl, rfl, rfl⟩

/-! The step of each host input. -/

theorem step_of_command {s : State} {w : Word} {rest : List HostInput} (h : s.pending = .command w :: rest) :
    step s = runWord exec w { s with pending := rest } := by
  simp only [step, stepWith, h, accept]

theorem step_of_reset {s : State} {rest : List HostInput} (h : s.pending = .reset :: rest) :
    step s = .next (resetBlock { s with pending := rest }) := by
  simp only [step, stepWith, h, accept]

theorem step_of_resetInFlight {s : State} {w : Word} {rest : List HostInput}
    (h : s.pending = .resetInFlight w :: rest) :
    step s = resetDuring exec w { s with pending := rest } := by
  simp only [step, stepWith, h, accept]

/-- A reset that meets a word in flight resets the block, and the host has the word's response or lacks it. -/
theorem resetDuring_cases {run : Instr → State → Result} {w : Word} {s u : State}
    (h : runWord run w { s with freeCount := s.freeCount + 1 } = .next u) :
    resetDuring run w s = .next (resetBlock { s with freeCount := s.freeCount + 1 })
      ∨ resetDuring run w s = .next (resetBlock u) := by
  simp only [resetDuring, h]
  split
  · exact .inl rfl
  · exact .inr rfl

/-- Settles O57: the reset overwrites the block in each case, and a delivered response is the one the word draws without
the reset, since the free value's counter is not part of the block. -/
theorem resetInputRestoresResetState : Obligations.ResetInputRestoresResetState := by
  refine fun s rest => ⟨fun hp => ⟨_, step_of_reset hp, rfl, rfl, rfl, rfl, rfl⟩, fun w hp => ?_⟩
  obtain ⟨u, v, r, hu, hv, _, ⟨hru, _, _⟩, hrv, hpv, _⟩ :=
    runWord_sameBlock w (s := { s with pending := rest })
      (s' := { s with pending := rest, freeCount := s.freeCount + 1 }) ⟨rfl, rfl, rfl, rfl⟩
  have hcommand : step { s with pending := .command w :: rest } = .next u := (step_of_command rfl).trans hu
  obtain hlost | hdelivered := resetDuring_cases (s := { s with pending := rest }) hv
  · exact ⟨_, u, (step_of_resetInFlight hp).trans hlost, hcommand, rfl, rfl, rfl, rfl, .inl rfl⟩
  · exact ⟨_, u, (step_of_resetInFlight hp).trans hdelivered, hcommand, rfl, rfl, rfl, hpv, .inr (hrv.trans hru.symm)⟩

end Sys2Proof.Machine
end

section
/-! The floor modulo as the only index that differs by a multiple of 26 (spec/00_scope.md R8). -/
namespace Sys2Proof.Machine

/-- Settles O7: an integer less its remainder is a multiple of 26, and integers that differ by a multiple of 26 are one
index. -/
theorem floorModuloIsUnique : Obligations.FloorModuloIsUnique := by
  intro a r
  constructor
  · rintro rfl
    rw [mod26_val]
    exact Int.dvd_self_sub_emod
  · intro h
    calc r = mod26 (r.val : Int) := (mod26_idx r).symm
      _ = mod26 a := (mod26_congr h).symm

end Sys2Proof.Machine
end

section
/-! The default reflectors (spec/43_reflector.md R172). -/
namespace Sys2Proof.Machine

/-- As indices the three default wirings swap 13 pairs of different letters. -/
theorem standardRoms_reflectors_swap (n : Fin 3) :
    Involutive (wiringIndices standardRoms.reflectors[n]) ∧ NoFixedPoint (wiringIndices standardRoms.reflectors[n]) := by
  revert n; decide +kernel

/-- Settles O25: the rotors are `standardRoms_sound`, and the reflectors hold letters that swap in pairs. -/
theorem defaultRomsAreSound : Obligations.DefaultRomsAreSound :=
  ⟨standardRoms_sound, fun n =>
    ⟨standardRoms_reflector_letters (Vector.getElem?_eq_getElem n.isLt), standardRoms_reflectors_swap n⟩⟩

end Sys2Proof.Machine
end

section
/-! Whole-machine rules: a run of commands depends on the block alone (spec/44_machine.md R214), and every step of the
block as built keeps the invariant (spec/10_state.md R30, spec/41_plugboard.md R116). -/
namespace Sys2Proof.Machine

/-- Settles O51: an induction over the commands, each of which answers the two states alike and leaves them one block. -/
theorem responsesDependOnBlockOnly : Obligations.ResponsesDependOnBlockOnly := by
  intro is
  induction is with
  | nil => exact fun s s' h => ⟨s, s', [], rfl, rfl, h, by simp⟩
  | cons i is ih =>
    intro s s' h
    obtain ⟨u, u', w, hu, hu', hblock, ⟨hw, _, _⟩, hw', _, _⟩ := exec_sameBlock i h
    obtain ⟨t, t', outs, ht, ht', hblock', houts, houts'⟩ := ih u u' hblock
    refine ⟨t, t', w :: outs, (execAll_cons hu is).trans ht, (execAll_cons hu' is).trans ht', hblock', ?_, ?_⟩
    · simp [houts, hw]
    · simp [houts', hw']

/-- Settles O59: the default ROMs are sound, and over sound ROMs every step answers a safe state. -/
theorem everyStepKeepsTheInvariant : Obligations.EveryStepKeepsTheInvariant := by
  intro s t h hstep
  obtain ⟨u, hu, hinv⟩ := stepOver_keeps_inv standardRoms_sound h
  rw [stepOver_standardRoms] at hu
  cases hu.symm.trans hstep
  exact hinv

end Sys2Proof.Machine
end
